-- ==== Sys2Proof/Word.lean ====
section
/-! DEFINITION. The two widths the spec uses (`00_scope.md` R4, R6, R7): a byte is a field of a call or a byte of the
frame, a word is a wide value (`XLEN` = 64). -/

namespace Sys2Proof

/-- An 8-bit value (`INW` = 8, R4). -/
abbrev Byte := BitVec 8

/-- A wide value (`XLEN` = 64, R4, R75), bit 0 the least significant bit (R32). -/
abbrev Word := BitVec 64

/-- The 11 bytes of a frame, byte 0 first (`FRAMELEN` = 11, R4, R31). -/
abbrev Frame := Vector Byte 11

/-- `uint(v)` of R6: the non-negative integer a bit vector denotes. -/
abbrev uint {n : Nat} (v : BitVec n) : Nat := v.toNat

/-- `sint(v)` of R6, R7: the two's-complement integer a bit vector denotes. -/
abbrev sint {n : Nat} (v : BitVec n) : Int := v.toInt

end Sys2Proof
end

