-- ==== Sys2Proof/Config.lean ====
section
/-! DEFINITION. The hardwired constants of the block (`00_scope.md` R4, `10_state.md` R13): configuration, not state. The
model takes no argument and has no free value: `93_implementation_defined.md` maps nothing to "any value". That the
reference really uses these literals is the source's claim, which nobody could audit (N17; log entry 11, UNVERIFIED). -/

namespace Sys2Proof.Config

/-- `K0` (R13): the value the checksum accumulator starts from, 12 bits as the source writes it. -/
def k0 : BitVec 12 := 0x8FF#12

/-- `SXMASK` (R13): the OR-mask of TRIMWIDE, bits 63..7 one and bits 6..0 zero. -/
def sxMask : Word := 0xFFFFFFFFFFFFFF80#64

/-- `HDR0` (R13): frame byte 0, the sync/header marker. -/
def hdr0 : Byte := 0xFF#8

/-- `HDR1` (R13): frame byte 1, the frame-type/length marker. -/
def hdr1 : Byte := 0x08#8

/-- `PAYLOAD` (R4, R13): each of the frame bytes 2 to 10. -/
def payload : Byte := 0x00#8

/-- `TRIMMAX` (R4): the top of the valid trim range, a caller contract that the block does not check. -/
def trimMax : Byte := 0x1F#8

/-- `NIN` (R4): the number of input fields (eight, `90_conflicts.md` C1). -/
def nin : Nat := 8

/-- `INW` (R4): the width of an input field. -/
def inw : Nat := 8

/-- `XLEN` (R4): the width of the wide values. -/
def xlen : Nat := 64

/-- `FRAMELEN` (R4): the number of bytes in a frame. -/
def frameLen : Nat := 11

end Sys2Proof.Config
end

