-- ==== Sys2Proof/Syntax.lean ====
section
/-! DEFINITION. The syntax: a call (`30_encoding.md` R45, R46), what the input ports carry (R12, R142), and the three
operations of the block (R55), one constructor for each row of `spec/opcode_table.json`. -/

namespace Sys2Proof

/-- The eight fields of a call (R46), in the source's tuple order. -/
inductive Field where
  | flags | yaw | throttle | roll | pitch | leftTrim | rightTrim | rudderTrim
  deriving DecidableEq, Repr

/-- A call (R45): one value for each of the eight input ports. Any value is accepted (R57). -/
structure Call where
  flags : Byte
  yaw : Byte
  throttle : Byte
  roll : Byte
  pitch : Byte
  leftTrim : Byte
  rightTrim : Byte
  rudderTrim : Byte
  deriving DecidableEq, Repr

/-- What `left_trim_i` carries. R142 tells its bit 7 from its bits 6..0, since no output depends on bit 7 (R73). -/
inductive LeftTrimPort where
  /-- Some bit of bits 6..0 is not driven to a definite value: no output that depends on leftTrim has a value (R142). -/
  | undriven
  /-- Bits 6..0 are driven and bit 7 is not: enough for every output (R142), but no field value, so no call (R45). -/
  | lowOnly (bits : BitVec 7)
  /-- All eight bits are driven. -/
  | whole (v : Byte)
  deriving DecidableEq, Repr

/-- The byte `left_trim_i` carries, if all of it is driven. -/
def LeftTrimPort.byte? : LeftTrimPort → Option Byte
  | .undriven => none
  | .lowOnly _ => none
  | .whole v => some v

/-- What the eight input ports carry (R12): each a byte, or `none` while it is not driven to a definite value (R142; log entry 6). -/
structure InPorts where
  flags : Option Byte
  yaw : Option Byte
  throttle : Option Byte
  roll : Option Byte
  pitch : Option Byte
  leftTrim : LeftTrimPort
  rightTrim : Option Byte
  rudderTrim : Option Byte
  deriving DecidableEq, Repr

/-- The three operations (R55). Each row of the table has the one format CALL64, all eight fields (R60), whether or not
the operation reads them; so each constructor carries the whole call (log entry 4, DESIGN CHOICE). -/
inductive Instr where
  /-- TRIMWIDE, `computeTrimWide` (R70). -/
  | trimwide (c : Call)
  /-- CHECKSUM, `computeChecksum` (R80). -/
  | checksum (c : Call)
  /-- FRAME, `buildFrame` (R100). -/
  | frame (c : Call)
  deriving DecidableEq, Repr

/-- The call an operation belongs to. -/
def Instr.call : Instr → Call
  | .trimwide c => c
  | .checksum c => c
  | .frame c => c

/-- The input ports while the host presents a call: all eight driven, as one tuple (R34, R45). -/
def Call.toPorts (c : Call) : InPorts :=
  { flags := some c.flags, yaw := some c.yaw, throttle := some c.throttle, roll := some c.roll, pitch := some c.pitch,
    leftTrim := .whole c.leftTrim, rightTrim := some c.rightTrim, rudderTrim := some c.rudderTrim }

/-- No input port driven: before the host's first call (R142). -/
def InPorts.undriven : InPorts :=
  { flags := none, yaw := none, throttle := none, roll := none, pitch := none,
    leftTrim := .undriven, rightTrim := none, rudderTrim := none }

end Sys2Proof
end

