-- ==== Sys2Proof/WellFormed.lean ====
section
/-! DEFINITION. Well-formedness. What the ports carry is a call exactly when every field has a definite value
(`30_encoding.md` R45, `70_reset_and_hazards.md` R142): that is the only check the spec knows. No value of a field is
illegal (R57), so every operation is well-formed; the caller's contract on trims is no check of the block (R124) and stands
in `Safety.lean`. -/

namespace Sys2Proof

/-- The tuple on the ports is complete: "a call is by definition a complete 8-tuple" (R142). -/
def InPorts.complete (t : InPorts) : Bool :=
  t.flags.isSome && t.yaw.isSome && t.throttle.isSome && t.roll.isSome && t.pitch.isSome
    && t.leftTrim.byte?.isSome && t.rightTrim.isSome && t.rudderTrim.isSome

/-- An operation is well-formed when the tuple its call puts on the ports is complete. -/
def Instr.wellFormed (i : Instr) : Bool := i.call.toPorts.complete

/-- Every operation is well-formed: "Illegal calls: none" (R57). -/
theorem Instr.wellFormed_all (i : Instr) : i.wellFormed = true := rfl

end Sys2Proof
end

