-- ==== Sys2Proof/Decode.lean ====
section
/-! DEFINITION. The decoder and the encoder. The packed view of a call is `ARGS` (`30_encoding.md` R47): field `k` at bits
`8k+7..8k`. "A decoder is field extraction by rule R47 and nothing else, and it cannot fail" (R56): there is no opcode, and
one call word stands for all three operations. What can fail is only what is not a call: fewer than eight bytes (R45, R58),
or a port that is not driven (R142). -/

namespace Sys2Proof

/-- The index `k` of a field (R46). -/
def Field.index : Field → Nat
  | .flags => 0
  | .yaw => 1
  | .throttle => 2
  | .roll => 3
  | .pitch => 4
  | .leftTrim => 5
  | .rightTrim => 6
  | .rudderTrim => 7

/-- The value a call gives a field. -/
def Call.get (c : Call) : Field → Byte
  | .flags => c.flags
  | .yaw => c.yaw
  | .throttle => c.throttle
  | .roll => c.roll
  | .pitch => c.pitch
  | .leftTrim => c.leftTrim
  | .rightTrim => c.rightTrim
  | .rudderTrim => c.rudderTrim

/-- The call with one field replaced. -/
def Call.set (c : Call) (f : Field) (v : Byte) : Call :=
  match f with
  | .flags => { c with flags := v }
  | .yaw => { c with yaw := v }
  | .throttle => { c with throttle := v }
  | .roll => { c with roll := v }
  | .pitch => { c with pitch := v }
  | .leftTrim => { c with leftTrim := v }
  | .rightTrim => { c with rightTrim := v }
  | .rudderTrim => { c with rudderTrim := v }

/-- The byte the port of a field carries (R12), if it is driven. -/
def InPorts.get (t : InPorts) : Field → Option Byte
  | .flags => t.flags
  | .yaw => t.yaw
  | .throttle => t.throttle
  | .roll => t.roll
  | .pitch => t.pitch
  | .leftTrim => t.leftTrim.byte?
  | .rightTrim => t.rightTrim
  | .rudderTrim => t.rudderTrim

/-! ## The packed word -/

/-- `ARGS` of a call (R47): rudderTrim in the most significant byte, flags in the least. -/
def Call.args (c : Call) : BitVec 64 :=
  c.rudderTrim ++ c.rightTrim ++ c.leftTrim ++ c.pitch ++ c.roll ++ c.throttle ++ c.yaw ++ c.flags

/-- Byte lane `k` of a packed call, `ARGS[8k+7:8k]` (R47). -/
def lane (w : BitVec 64) (k : Nat) : Byte := w.extractLsb' (8 * k) 8

/-- The call a word stands for (R47, R56): field extraction, total. -/
def decodeWord (w : BitVec 64) : Call :=
  { flags := lane w 0, yaw := lane w 1, throttle := lane w 2, roll := lane w 3, pitch := lane w 4,
    leftTrim := lane w 5, rightTrim := lane w 6, rudderTrim := lane w 7 }

/-- The operations of a call: "Every call performs all three operations on the call's one input tuple" (R56). They are
listed in the order of R55, which no output depends on (R127; log entry 5, DESIGN CHOICE). -/
def operations (c : Call) : List Instr := [.trimwide c, .checksum c, .frame c]

/-- The word of an operation: that of its call, for no bit says which operation is meant (R56, R60). -/
def encode (i : Instr) : BitVec 64 := i.call.args

/-! ## Bytes and ports -/

/-- Why something is not a call. -/
inductive DecodeError where
  /-- Only `n` bytes, and a call is always eight (R45, R58). -/
  | truncated (n : Nat)
  /-- The port of this field, the first such one in tuple order, is not driven (R142). -/
  | undriven (f : Field)
  deriving DecidableEq, Repr

/-- The call at the head of a list of bytes in tuple order, lane 0 first (R46, R47; log entry 9, DEDUCED), and the bytes after it. -/
def decode : List Byte → Except DecodeError (Call × List Byte)
  | flags :: yaw :: throttle :: roll :: pitch :: leftTrim :: rightTrim :: rudderTrim :: rest =>
    .ok ({ flags, yaw, throttle, roll, pitch, leftTrim, rightTrim, rudderTrim }, rest)
  | short => .error (.truncated short.length)

/-- The value a port carries, or the name of the field whose port carries none. -/
def driven (f : Field) : Option Byte → Except DecodeError Byte
  | some v => .ok v
  | none => .error (.undriven f)

/-- The call on the input ports, if the tuple is complete: "an incomplete tuple is not a call" (R142). -/
def decodeTuple (t : InPorts) : Except DecodeError Call := do
  let flags ← driven .flags t.flags
  let yaw ← driven .yaw t.yaw
  let throttle ← driven .throttle t.throttle
  let roll ← driven .roll t.roll
  let pitch ← driven .pitch t.pitch
  let leftTrim ← driven .leftTrim t.leftTrim.byte?
  let rightTrim ← driven .rightTrim t.rightTrim
  let rudderTrim ← driven .rudderTrim t.rudderTrim
  return { flags, yaw, throttle, roll, pitch, leftTrim, rightTrim, rudderTrim }

/-- Bits 6..0 of `left_trim_i`, if they are driven: all that any output depends on of that port (R73, R142). -/
def LeftTrimPort.low? : LeftTrimPort → Option (BitVec 7)
  | .undriven => none
  | .lowOnly bits => some bits
  | .whole v => some (v.extractLsb' 0 7)

/-- The eight bytes of a word, lane 0 first (R47; log entry 9, DEDUCED). -/
def wordBytes (w : BitVec 64) : List Byte :=
  [lane w 0, lane w 1, lane w 2, lane w 3, lane w 4, lane w 5, lane w 6, lane w 7]

/-! ## The opcode table's numbering -/

/-- The bytes of a table word of `nbits` bits, lane 0 first: at least eight, the bits above `nbits` zero (log entry 9). -/
def tableBytes (nbits w : Nat) : List Byte :=
  (List.range (max 8 ((nbits + 7) / 8))).map fun k => BitVec.ofNat 8 (w % 2 ^ nbits / 2 ^ (8 * k))

/-- The call a table word stands for: exactly eight bytes (R58). -/
def tableCall (nbits w : Nat) : Option Call :=
  match decode (tableBytes nbits w) with
  | .ok (c, []) => some c
  | _ => none

/-- The instruction a table word stands for. Every word stands for all three operations (R56), and one answer is asked for:
CHECKSUM, the one that reads every field (R55). The other two are in `operations` of the same call (log entry 4, DESIGN CHOICE). -/
def decodeTableWord (nbits w : Nat) : Option Instr := (tableCall nbits w).map .checksum

end Sys2Proof
end

