-- ==== Sys2Proof/Machine/Operands.lean ====
section
/-! DEFINITION. Operand assembly (`30_encoding.md` R51) and the notation it rests on (`00_scope.md` R6). -/

namespace Sys2Proof.Machine

/-- `zext_64(v)` (R6): zero bits above. -/
def zext64 {n : Nat} (v : BitVec n) : Word := v.setWidth 64

/-- `sext_64(v)` (R6): copies of the top bit above. TRIMWIDE does not use it (R72, `90_conflicts.md` C2). -/
def sext64 {n : Nat} (v : BitVec n) : Word := v.signExtend 64

/-- `a -64 b` (R6, R83): subtraction modulo 2^64. -/
def sub64 (a b : Word) : Word := a - b

/-- A plain field as a term of CHECKSUM (R51 b): zero-extended, not scaled, shifted or sign-extended. -/
def plainTerm (v : Byte) : Word := zext64 v

/-- `K0` as the accumulator's first value (R51 c). -/
def startTerm : Word := zext64 Config.k0

/-- `L7` of R84: the number in the low seven bits of leftTrim. -/
def low7 (v : Byte) : Nat := uint (v.extractLsb' 0 7)

/-- `S` of R84: the sum of the seven plain fields, as unsigned numbers. -/
def plainSum (c : Call) : Nat :=
  uint c.flags + uint c.yaw + uint c.throttle + uint c.roll + uint c.pitch + uint c.rudderTrim + uint c.rightTrim

end Sys2Proof.Machine
end

