-- ==== Sys2Proof/Machine/Values.lean ====
section
/-! DEFINITION. The values the block computes: the three pure functions of a call and, between them, the nets that
`10_state.md` R14 names. "call : (flags, yaw, ...) -> (trim_wide, checksum, frame)" (`00_scope.md` R8). -/

namespace Sys2Proof.Machine

/-! ## TRIMWIDE -/

/-- `TW` of R70: leftTrim zero-extended to 64 bits, OR-ed with `SXMASK`. -/
def trimWide (leftTrim : Byte) : Word := zext64 leftTrim ||| Config.sxMask

/-! ## CHECKSUM -/

/-- The named intermediate values of a call (R14): nets, with a value only as a function of the current call's inputs. -/
structure Nets where
  tw : Word
  acc0 : Word
  acc1 : Word
  acc2 : Word
  acc3 : Word
  acc4 : Word
  acc5 : Word
  acc6 : Word
  acc7 : Word
  acc8 : Word
  deriving DecidableEq, Repr

/-- The accumulator chain (R81): the order of the terms is that of the source's formula, rudderTrim before rightTrim (R82). -/
def nets (c : Call) : Nets :=
  let tw := trimWide c.leftTrim
  let acc0 := startTerm
  let acc1 := sub64 acc0 (plainTerm c.flags)
  let acc2 := sub64 acc1 (plainTerm c.yaw)
  let acc3 := sub64 acc2 (plainTerm c.throttle)
  let acc4 := sub64 acc3 (plainTerm c.roll)
  let acc5 := sub64 acc4 (plainTerm c.pitch)
  let acc6 := sub64 acc5 tw
  let acc7 := sub64 acc6 (plainTerm c.rudderTrim)
  let acc8 := sub64 acc7 (plainTerm c.rightTrim)
  { tw, acc0, acc1, acc2, acc3, acc4, acc5, acc6, acc7, acc8 }

/-- The nine values of the accumulator, `ACC0` first (R81). -/
def trace (n : Nets) : List Word := [n.acc0, n.acc1, n.acc2, n.acc3, n.acc4, n.acc5, n.acc6, n.acc7, n.acc8]

/-- The checksum: `ACC8`, all 64 bits, not truncated (R80, R88). -/
def checksum (c : Call) : Word := (nets c).acc8

/-- The eight terms subtracted, in the chain's order (R81). -/
def terms (c : Call) : List Word :=
  [plainTerm c.flags, plainTerm c.yaw, plainTerm c.throttle, plainTerm c.roll, plainTerm c.pitch, trimWide c.leftTrim,
    plainTerm c.rudderTrim, plainTerm c.rightTrim]

/-- The checksum computed with an accumulator of `n` bits and `TW` taken as the signed number it denotes (R75, R92). No
operation uses it: the block's width is 64. -/
def checksumAt (n : Nat) (c : Call) : BitVec n :=
  Config.k0.setWidth n - c.flags.setWidth n - c.yaw.setWidth n - c.throttle.setWidth n - c.roll.setWidth n
    - c.pitch.setWidth n - BitVec.ofInt n (sint (trimWide c.leftTrim)) - c.rudderTrim.setWidth n - c.rightTrim.setWidth n

/-! ## FRAME -/

/-- The fixed frame (R49, R100): two header bytes and nine zero payload bytes. -/
def fixedFrame : Frame :=
  #v[Config.hdr0, Config.hdr1, Config.payload, Config.payload, Config.payload, Config.payload, Config.payload,
    Config.payload, Config.payload, Config.payload, Config.payload]

/-- `FRAME88` (R50): the flattened view of a frame, byte `i` at bits `8i+7..8i`. -/
def frame88 (f : Frame) : BitVec 88 :=
  f[10] ++ f[9] ++ f[8] ++ f[7] ++ f[6] ++ f[5] ++ f[4] ++ f[3] ++ f[2] ++ f[1] ++ f[0]

/-! ## The response of a call -/

/-- The state type of the block: the unit type, since nothing is retained from one call to the next (R8, R10). -/
abbrev BlockState := Unit

/-- The three outputs of a call (R8, R45). -/
structure Response where
  trimWide : Word
  checksum : Word
  frame : Frame
  deriving DecidableEq, Repr

/-- The block as one total function of the call (R8). -/
def respond (c : Call) : Response := { trimWide := trimWide c.leftTrim, checksum := checksum c, frame := fixedFrame }

/-- One call of the block: "a next state (the unit) and the outputs" (R120). -/
def blockCall (b : BlockState) (c : Call) : BlockState × Response := (b, respond c)

/-! ## The outputs for whatever the inputs carry -/

/-- The output ports (R12): a value, or `none` while an input the output depends on is not driven (R17, R142). `frame_o`
depends on no input and always has a value (R105). -/
structure OutPorts where
  trimWide : Option Word
  checksum : Option Word
  frame : Frame
  deriving DecidableEq, Repr

/-- The output ports while they show the response of a call. -/
def Response.ports (r : Response) : OutPorts :=
  { trimWide := some r.trimWide, checksum := some r.checksum, frame := r.frame }

/-- Bits 6..0 of leftTrim as the byte TRIMWIDE is computed from where bit 7 may be undriven; bit 7 is taken as zero and changes no
output (R73; log entry 6). -/
def lowByte (bits : BitVec 7) : Byte := bits.setWidth 8

/-- What `checksum_o` depends on (R142): the seven plain ports and `left_trim_i[6:0]`, if all are driven. -/
def checksumInputs (t : InPorts) : Option Call := do
  let flags ← t.flags
  let yaw ← t.yaw
  let throttle ← t.throttle
  let roll ← t.roll
  let pitch ← t.pitch
  let bits ← t.leftTrim.low?
  let rightTrim ← t.rightTrim
  let rudderTrim ← t.rudderTrim
  return { flags, yaw, throttle, roll, pitch, leftTrim := lowByte bits, rightTrim, rudderTrim }

/-- What the outputs are for what the inputs carry (R140): each has a value exactly when the inputs it depends on are driven
(R142), and `frame_o` always (R105). -/
def outputsFor (t : InPorts) : OutPorts :=
  { trimWide := t.leftTrim.low?.map fun bits => trimWide (lowByte bits)
    checksum := (checksumInputs t).map checksum
    frame := fixedFrame }

end Sys2Proof.Machine
end

