-- ==== Sys2Proof/Machine/State.lean ====
section
/-! DEFINITION. State as plain data. The block itself retains nothing (`10_state.md` R10: "The state type of the model is the
unit type"): its own state is the field `block`, of the unit type. The other fields are not the block's: what its eight input
ports and three output ports carry at the moment (R12), which is nothing of a call once the call is over (log entries 1 and 17,
DESIGN CHOICE), and the host's lists of interactions still to come and of what it saw (`70_reset_and_hazards.md` R149; log entry 2,
DESIGN CHOICE). The nets `TW`, `ACC0`..`ACC8` are stored nowhere (R14). -/

namespace Sys2Proof.Machine

/-- What the host can do to the block (R131). -/
inductive HostAct where
  /-- Present a tuple on the input ports and sample the outputs; it is a call when the tuple is complete (R45, R142). -/
  | present (t : InPorts)
  /-- Read `frame_o` alone, providing nothing (R131, R105). -/
  | readFrame
  deriving DecidableEq, Repr

/-- One entry of the observation of a run (R149). -/
inductive Observation where
  /-- A call and what the three output ports showed for it. -/
  | call (inputs : Call) (outputs : OutPorts)
  /-- What a read of `frame_o` alone showed. -/
  | frameRead (f : Frame)
  deriving DecidableEq, Repr

/-- The state: the block's own, which is the unit (R10); what its ports carry; and the host's list of interactions and record
of what it saw. -/
structure State where
  block : BlockState
  inp : InPorts
  out : OutPorts
  pending : List HostAct
  seen : List Observation
  deriving DecidableEq, Repr

/-- Faults: none exist. "The block raises no exception, trap, fault or error indication, for any call"
(`60_exceptions.md` R120); the type is empty, so no step can answer one (log entry 14, DEDUCED; safe). -/
inductive Fault where
  deriving DecidableEq, Repr

/-- Why a step has no next state. -/
inductive Refusal where
  /-- Raised by an arm of `exec` that has no meaning yet; no arm is left so. Safe. -/
  | notModelled (mnemonic : String)
  /-- Raised by `step` when the host has no interaction left: the run has ended (R149), and there is no call (R142). Safe. -/
  | noCall
  /-- Raised by `step` when the tuple presented is not complete: "an incomplete tuple is not a call and the model has no step for
  it" (R142, U10). Safe. -/
  | incompleteCall (e : DecodeError)
  deriving DecidableEq, Repr

/-- Power-up, before the host's first call (R17, R141, R142): the unit state; no input driven, so `trim_wide_o` and `checksum_o`
have no value and `frame_o` shows the fixed frame; the host's lists are empty (log entries 3 and 6). -/
def State.reset : State :=
  { block := (), inp := InPorts.undriven, out := outputsFor InPorts.undriven, pending := [], seen := [] }

end Sys2Proof.Machine
end

