-- ==== Sys2Proof/Machine/Ops.lean ====
section
/-! DEFINITION. The named operations over the ports and over the host's lists. There is no memory (`20_memory.md` R30), no
register (`10_state.md` R11) and no exception to take or to return from (`60_exceptions.md` R120, R128), so no operation for
these stands here. -/

namespace Sys2Proof.Machine

/-! ## Ports: `out.<name> <- v` of R6 -/

/-- `out.trim_wide <- w` (R70). -/
def State.driveTrimWide (s : State) (w : Word) : State := { s with out := { s.out with trimWide := some w } }

/-- `out.checksum <- w` (R80). -/
def State.driveChecksum (s : State) (w : Word) : State := { s with out := { s.out with checksum := some w } }

/-- `out.frame <- f` (R100). -/
def State.driveFrame (s : State) (f : Frame) : State := { s with out := { s.out with frame := f } }

/-! ## The host's side -/

/-- The host presents a call, all eight bytes as one tuple (R34, R146), and has `rest` still to do. -/
def State.presentCall (s : State) (c : Call) (rest : List HostAct) : State := { s with inp := c.toPorts, pending := rest }

/-- The host samples all outputs of the call it presents (R34, R149). -/
def State.recordCall (s : State) (c : Call) : State := { s with seen := s.seen ++ [.call c s.out] }

/-- The host provides nothing: it takes the inputs away, and the outputs follow at once (R140, R142), so nothing of the call made
before stays on any port (R10, R149; log entry 17, DESIGN CHOICE). -/
def State.release (s : State) : State := { s with inp := InPorts.undriven, out := outputsFor InPorts.undriven }

/-- The host samples `frame_o` alone (R131), and has `rest` still to do. -/
def State.recordFrame (s : State) (rest : List HostAct) : State :=
  { s with pending := rest, seen := s.seen ++ [.frameRead s.out.frame] }

/-- The host puts one more interaction before those still to come. -/
def State.pushAct (s : State) (a : HostAct) : State := { s with pending := a :: s.pending }

end Sys2Proof.Machine
end

