-- ==== Sys2Proof/Machine/Checksum.lean ====
section
/-! DEFINITION. The meaning of CHECKSUM (`41_checksum.md`). -/

namespace Sys2Proof.Machine

/-- CHECKSUM (R80, R81): `ACC8` of the chain on `checksum_o`, not truncated; trims are not validated (R89). -/
def execChecksum (c : Call) (s : State) : Host.Outcome State Fault Refusal :=
  .next (s.driveChecksum (checksum c))

end Sys2Proof.Machine
end

