-- ==== Sys2Proof/Machine/FramePacker.lean ====
section
/-! DEFINITION. The meaning of FRAME (`42_frame.md`). -/

namespace Sys2Proof.Machine

/-- FRAME (R100): the fixed frame on `frame_o`. It reads no field of the call it belongs to: nothing is folded into the
payload (R103). -/
def execFrame (_c : Call) (s : State) : Host.Outcome State Fault Refusal :=
  .next (s.driveFrame fixedFrame)

end Sys2Proof.Machine
end

