-- ==== Sys2Proof/Machine/TrimWide.lean ====
section
/-! DEFINITION. The meaning of TRIMWIDE (`40_trimwide.md`). -/

namespace Sys2Proof.Machine

/-- TRIMWIDE (R70): `TW` of leftTrim on `trim_wide_o`; no other field is read, no flag, no exception, nothing else written. -/
def execTrimwide (c : Call) (s : State) : Host.Outcome State Fault Refusal :=
  .next (s.driveTrimWide (trimWide c.leftTrim))

end Sys2Proof.Machine
end

