-- ==== Sys2Proof/Machine/Dispatch.lean ====
section
/-! DEFINITION. One arm for each operation of the block (`30_encoding.md` R55). -/

namespace Sys2Proof.Machine

/-- The effect of one operation of a call on its own output port. -/
def exec (i : Instr) (s : State) : Host.Outcome State Fault Refusal :=
  match i with
  | .trimwide c => Sys2Proof.Machine.execTrimwide c s
  | .checksum c => Sys2Proof.Machine.execChecksum c s
  | .frame c => Sys2Proof.Machine.execFrame c s

end Sys2Proof.Machine
end

