-- ==== Sys2Proof/Machine/Calls.lean ====
section
/-! DEFINITION. What one interaction of the host does. A call performs all three operations on its one tuple
(`30_encoding.md` R56): `exec` runs once for each of `operations c`, between presenting the tuple and sampling the outputs
(`20_memory.md` R34, `70_reset_and_hazards.md` R146; log entry 7). -/

namespace Sys2Proof.Machine

/-- Several operations one after another, each on the state the one before it left. -/
def runOps : List Instr → State → Host.Outcome State Fault Refusal
  | [], s => .next s
  | i :: rest, s =>
    match exec i s with
    | .next t => runOps rest t
    | .fault r => .fault r
    | .refused r => .refused r

/-- A complete call: the tuple goes on the ports, the three operations run, the host samples the outputs (R34, R56) and then takes the
inputs away, so that the block is left as it was before the call (R10, R149; log entry 17). -/
def stepCall (c : Call) (rest : List HostAct) (s : State) : Host.Outcome State Fault Refusal :=
  match runOps (operations c) (s.presentCall c rest) with
  | .next t => .next (t.recordCall c).release
  | .fault r => .fault r
  | .refused r => .refused r

/-- A tuple presented: a call if it is complete; if not, "the model has no step for it" (R142, U10). -/
def stepPresent (t : InPorts) (rest : List HostAct) (s : State) : Host.Outcome State Fault Refusal :=
  match decodeTuple t with
  | .ok c => stepCall c rest s
  | .error e => .refused (.incompleteCall e)

/-- A read of `frame_o` alone, possible at any time: the host provides nothing and samples the port (R105, R131; log entries 15, 17). -/
def stepReadFrame (rest : List HostAct) (s : State) : Host.Outcome State Fault Refusal :=
  .next (s.release.recordFrame rest)

/-- What the host does to have a table word run: it presents the call the word stands for (log entry 3). A word that is no
call leaves the ports undriven. -/
def tableAct (nbits w : Nat) : HostAct :=
  match tableCall nbits w with
  | some c => .present c.toPorts
  | none => .present InPorts.undriven

end Sys2Proof.Machine
end

