-- ==== Sys2Proof/Machine/Step.lean ====
section
/-! DEFINITION. The step: the host's next interaction with the block. There is no fetch and no program counter: the host
brings every call (`60_exceptions.md` R133, `70_reset_and_hazards.md` R149; log entry 3). -/

namespace Sys2Proof.Machine

/-- One step: the host's next interaction. With none left the run has ended and there is no call (R142, R149). -/
def step (s : State) : Host.Outcome State Fault Refusal :=
  match s.pending with
  | [] => .refused .noCall
  | .readFrame :: rest => stepReadFrame rest s
  | .present t :: rest => stepPresent t rest s

/-- The state with a table word as the host's very next interaction. -/
def State.withFetchWord (s : State) (nbits w : Nat) : State := s.pushAct (tableAct nbits w)

end Sys2Proof.Machine
end

