-- ==== Sys2Proof/Machine/CallerViews.lean ====
section
/-! DEFINITION. The caller-side views of a wide value (`43_caller_views.md`): functions the host applies to what it reads.
They are no operations of the block and have no row in the opcode table. -/

namespace Sys2Proof.Machine

/-- TRUNC8 (R110): the byte view, `result & 0xFF`. -/
def trunc8 (v : Word) : Byte := v.extractLsb' 0 8

/-- The character of a hexadecimal digit, `0` to `9` and lowercase `a` to `f` (R111). -/
def hexDigit (d : BitVec 4) : Char :=
  if uint d < 10 then Char.ofNat (48 + uint d) else Char.ofNat (87 + uint d)

/-- The sixteen hexadecimal digits of a word, most significant first. -/
def hexNibbles (v : Word) : List (BitVec 4) :=
  (List.range 16).map fun k => v.extractLsb' (4 * (15 - k)) 4

/-- The characters of HEXTEXT (R111): no leading zeros; the value zero gives one `0` (G1; log entry 13, PRESUMED). -/
def hexChars (v : Word) : List Char :=
  match (hexNibbles v).dropWhile (· == 0) with
  | [] => [hexDigit 0]
  | digits => digits.map hexDigit

/-- HEXTEXT (R111): the textual form of a wide value, read as unsigned (G2). -/
def hexText (v : Word) : String := String.ofList (hexChars v)

end Sys2Proof.Machine
end

