-- ==== Sys2Proof/Machine/Flags.lean ====
section
/-! DEFINITION. Flag computations. The block has no status flags: "No operation sets or reads a carry, zero, sign or
overflow flag" (`10_state.md` R11, `41_checksum.md` R80). What stands here are the two readings of a subtraction that R83 and
R85 speak of, so that claims can be stated with them; no operation computes, stores or reads either. The input named `flags` is a
payload operand, not a status register (R11). -/

namespace Sys2Proof.Machine

/-- The subtraction borrows out of bit 63 when its operands are read as unsigned numbers (R83). -/
def borrows (a b : Word) : Bool := decide (uint a < uint b)

/-- The subtraction overflows when its operands are read as signed numbers: its result is not the exact difference (R83, R85). -/
def subOverflows (a b : Word) : Bool := decide (sint (sub64 a b) ≠ sint a - sint b)

end Sys2Proof.Machine
end

