-- ==== Sys2Proof/Safety.lean ====
section
/-! DEFINITION. What claims are stated in: the caller's contract (`60_exceptions.md` R121, R123) and the invariant of the
boundary. The contract is no check of the block (R124): a claim about what the block outputs needs no premise (R123). -/

namespace Sys2Proof

/-- `TrimInRange` (R123): the caller's precondition for a meaningful packet. -/
abbrev Call.TrimInRange (c : Call) : Prop :=
  uint c.leftTrim ≤ uint Config.trimMax ∧ uint c.rightTrim ≤ uint Config.trimMax ∧ uint c.rudderTrim ≤ uint Config.trimMax

/-- ContractViolation (R121), a property of a call that the block neither detects nor reports. -/
abbrev Call.ContractViolation (c : Call) : Prop :=
  uint c.leftTrim > 0x1F ∨ uint c.rightTrim > 0x1F ∨ uint c.rudderTrim > 0x1F

namespace Machine

/-- An entry of the record shows what the rules give: the response of that very call (R8, R149), or the fixed frame (R105). -/
def Observation.ok : Observation → Bool
  | .call c o => decide (o = (respond c).ports)
  | .frameRead f => decide (f = fixedFrame)

/-- The invariant of the boundary: the outputs are those of the inputs (R34, R140), and every recorded entry is right. -/
abbrev State.Inv (s : State) : Prop := s.out = outputsFor s.inp ∧ ∀ o ∈ s.seen, o.ok = true

end Machine

end Sys2Proof
end

