-- ==== Sys2Proof/Certificates/Slice0/Obligations.lean ====
section
/-! DEFINITION. The statements for the provers. Those with basis "stated" formalise the rules they cite; those with basis
"derived" rest on the named sections and, where their docstring says so, on choices of the model's log. -/

open Sys2Proof Sys2Proof.Machine

/-! ## Encoding -/

/-- Call words written out in `95_test_vectors.md` (V-C1, V-C9, V-C12) stand for the calls written beside them, each with
its three operations (the list of operations is the model's choice, log entry 5). -/
def Obligations.SpecWordsDecode : Prop :=
  decodeWord 0x1010106464646401#64 = ⟨0x01, 0x64, 0x64, 0x64, 0x64, 0x10, 0x10, 0x10⟩ ∧
  decodeWord 0x0905000000000000#64 = ⟨0x00, 0x00, 0x00, 0x00, 0x00, 0x00, 0x05, 0x09⟩ ∧
  decodeWord 0x0F0A057856341280#64 = ⟨0x80, 0x12, 0x34, 0x56, 0x78, 0x05, 0x0A, 0x0F⟩ ∧
  .trimwide ⟨0x80, 0x12, 0x34, 0x56, 0x78, 0x05, 0x0A, 0x0F⟩ ∈ operations (decodeWord 0x0F0A057856341280#64) ∧
  .checksum ⟨0x80, 0x12, 0x34, 0x56, 0x78, 0x05, 0x0A, 0x0F⟩ ∈ operations (decodeWord 0x0F0A057856341280#64) ∧
  .frame ⟨0x80, 0x12, 0x34, 0x56, 0x78, 0x05, 0x0A, 0x0F⟩ ∈ operations (decodeWord 0x0F0A057856341280#64)

/-- R47: field `k` of a call occupies `ARGS[8k+7:8k]`, with the eight lanes as listed, and the reference scenario's word. -/
def Obligations.EveryFieldHasItsLane : Prop :=
  (∀ (c : Call) (f : Field), c.args.extractLsb' (8 * f.index) 8 = c.get f) ∧
  (∀ c : Call,
    c.args.extractLsb' 0 8 = c.flags ∧ c.args.extractLsb' 8 8 = c.yaw ∧ c.args.extractLsb' 16 8 = c.throttle ∧
    c.args.extractLsb' 24 8 = c.roll ∧ c.args.extractLsb' 32 8 = c.pitch ∧ c.args.extractLsb' 40 8 = c.leftTrim ∧
    c.args.extractLsb' 48 8 = c.rightTrim ∧ c.args.extractLsb' 56 8 = c.rudderTrim) ∧
  Call.args ⟨0x01, 0x64, 0x64, 0x64, 0x64, 0x10, 0x10, 0x10⟩ = 0x1010106464646401#64

/-- Decode and encode agree, both ways: the word of a well-formed operation decodes to its call, whose operations hold it, and
every operation of every one of the 2^64 words encodes to that word (R47, R56, R60; what an operation encodes to is log entry 4). -/
def Obligations.DecodeEncodeAgree : Prop :=
  (∀ i : Instr, i.wellFormed = true →
    decodeWord (encode i) = i.call ∧ i ∈ operations (decodeWord (encode i))) ∧
  (∀ w : BitVec 64, ∀ i ∈ operations (decodeWord w), i.wellFormed = true ∧ encode i = w)

/-- Every word is a call and performs exactly the three operations on its one tuple (R45, R56, R57). -/
def Obligations.EveryWordPerformsTheThree : Prop :=
  ∀ (w : BitVec 64) (i : Instr),
    i ∈ operations (decodeWord w) ↔
      i = .trimwide (decodeWord w) ∨ i = .checksum (decodeWord w) ∨ i = .frame (decodeWord w)

/-- A call is always eight bytes (R45, R58): fewer are rejected by name, of more the first eight are the call, in tuple order
(the byte order of a call is log entry 9). -/
def Obligations.BytesDecodeByLength : Prop :=
  (∀ bs : List Byte, bs.length < 8 → decode bs = .error (.truncated bs.length)) ∧
  (∀ bs : List Byte, 8 ≤ bs.length →
    ∃ c, decode bs = .ok (c, bs.drop 8) ∧ ∀ f : Field, bs[f.index]? = some (c.get f)) ∧
  (∀ w : BitVec 64, decode (wordBytes w) = .ok (decodeWord w, []))

/-- What the ports carry is a call exactly when every port is driven; otherwise the first undriven port is named (R142; the
name given is the model's own). -/
def Obligations.TupleIsACallWhenComplete : Prop :=
  (∀ (t : InPorts) (c : Call), decodeTuple t = .ok c ↔ t = c.toPorts) ∧
  (∀ t : InPorts, t.complete = true ↔ ∃ c, decodeTuple t = .ok c) ∧
  (∀ (t : InPorts) (e : DecodeError), decodeTuple t = .error e ↔
    ∃ f : Field, e = .undriven f ∧ t.get f = none ∧ ∀ g : Field, g.index < f.index → t.get g ≠ none)

/-- A table word of 64 bits presented as the host's next interaction is run as the call R47 reads from it, from every state.
That the table decoder answers CHECKSUM is the model's choice (log entry 4), and so are how a word is presented (log entry 3), the record
(log entry 2) and that the host then takes the inputs away (log entry 17). -/
def Obligations.TableWordRunsAsItsCall : Prop :=
  ∀ (w : Nat) (s : State), w < 2 ^ 64 →
    decodeTableWord 64 w = some (.checksum (decodeWord (BitVec.ofNat 64 w))) ∧
    step (s.withFetchWord 64 w) =
      .next { block := s.block
              inp := InPorts.undriven
              out := outputsFor InPorts.undriven
              pending := s.pending
              seen := s.seen ++ [.call (decodeWord (BitVec.ofNat 64 w)) (respond (decodeWord (BitVec.ofNat 64 w))).ports] }

/-! ## TRIMWIDE -/

/-- R70: TRIMWIDE answers a next state that differs only in `trim_wide_o`, which shows leftTrim zero-extended and OR-ed with the
mask: bits from 7 up are one, the low seven are leftTrim's, the number is negative; with the rule's corner cases and worked example. -/
def Obligations.TrimwideDrivesItsPort : Prop :=
  (∀ (c : Call) (s : State),
    exec (.trimwide c) s =
      .next { s with out := { s.out with trimWide := some (c.leftTrim.setWidth 64 ||| 0xFFFFFFFFFFFFFF80#64) } }) ∧
  (∀ (c : Call) (k : Nat),
    (c.leftTrim.setWidth 64 ||| 0xFFFFFFFFFFFFFF80#64).getLsbD k
      = if k < 7 then c.leftTrim.getLsbD k else decide (k < 64)) ∧
  (∀ c : Call, sint (c.leftTrim.setWidth 64 ||| 0xFFFFFFFFFFFFFF80#64) < 0) ∧
  trimWide 0x00 = 0xFFFFFFFFFFFFFF80#64 ∧ sint (trimWide 0x00) = -128 ∧
  trimWide 0x7F = 0xFFFFFFFFFFFFFFFF#64 ∧ sint (trimWide 0x7F) = -1 ∧
  trimWide 0x80 = 0xFFFFFFFFFFFFFF80#64 ∧ trimWide 0xFF = 0xFFFFFFFFFFFFFFFF#64 ∧
  trimWide 0x1F = 0xFFFFFFFFFFFFFF9F#64 ∧ sint (trimWide 0x1F) = -97 ∧
  trimWide 0x10 = 0xFFFFFFFFFFFFFF90#64 ∧ sint (trimWide 0x10) = -112

/-- R74: in every state, what TRIMWIDE leaves on its port is negative as a signed number, of magnitude at most 128, and large
only when read as unsigned. -/
def Obligations.TrimwideIsAlwaysNegative : Prop :=
  ∀ (c : Call) (s : State), ∃ t w, exec (.trimwide c) s = .next t ∧ t.out.trimWide = some w ∧
    w.getLsbD 63 = true ∧ sint w < 0 ∧ -128 ≤ sint w ∧ 0xFFFFFFFFFFFFFF80 ≤ uint w

/-- The bit-level form and the signed value of what TRIMWIDE leaves on its port, in every state. The signed value rests on the
sentence of R71 that the spec marks as its own inference ("[derived: from rule R70; bits 63..7 all one contribute -128 ...]"). -/
def Obligations.TrimwideBitFormAndValue : Prop :=
  ∀ (c : Call) (s : State), ∃ t w, exec (.trimwide c) s = .next t ∧ t.out.trimWide = some w ∧
    w.extractLsb' 7 57 = BitVec.allOnes 57 ∧
    w.extractLsb' 0 7 = c.leftTrim.extractLsb' 0 7 ∧
    w = ((c.leftTrim &&& 0x7F#8).setWidth 64 ||| 0xFFFFFFFFFFFFFF80#64) ∧
    sint w = (uint c.leftTrim % 128 : Nat) - (128 : Int) ∧ sint w ≤ -1 ∧
    (uint c.leftTrim ≤ 0x1F → sint w ≤ -97)

/-- Under the mask sign-extension and zero-extension agree, and TRIMWIDE is not a plain sign-extension. The agreement is the inference of
R72 that the spec marks as its own ("[derived: from the definitions of `sext_64`, `zext_64` ...]"). -/
def Obligations.ExtensionsAgreeUnderTheMask : Prop :=
  (∀ v : Byte, sext64 v ||| Config.sxMask = zext64 v ||| Config.sxMask) ∧
  (∀ v : Byte, trimWide v = zext64 v ||| Config.sxMask) ∧
  sext64 0x10#8 = 0x0000000000000010#64 ∧ sint (trimWide 0x10) = -112

/-- R73: bit 7 of leftTrim, cleared or set, changes nothing that any of the three operations does, in any state. -/
def Obligations.LeftTrimBitSevenIgnored : Prop :=
  (∀ v : Byte, trimWide v = trimWide (v &&& 0x7F#8) ∧ trimWide v = trimWide (v ||| 0x80#8)) ∧
  (∀ (c : Call) (v : Byte) (s : State), v = c.leftTrim &&& 0x7F#8 ∨ v = c.leftTrim ||| 0x80#8 →
    exec (.trimwide { c with leftTrim := v }) s = exec (.trimwide c) s ∧
    exec (.checksum { c with leftTrim := v }) s = exec (.checksum c) s ∧
    exec (.frame { c with leftTrim := v }) s = exec (.frame c) s ∧
    respond { c with leftTrim := v } = respond c)

/-- What TRIMWIDE leaves on its port says the low seven bits of leftTrim, and nothing else of the call or of the state
(R70, R142). -/
def Obligations.TrimwideShowsExactlyLowSeven : Prop :=
  ∀ (c c' : Call) (s s' t t' : State),
    exec (.trimwide c) s = .next t → exec (.trimwide c') s' = .next t' →
    (t.out.trimWide = t'.out.trimWide ↔ c.leftTrim.extractLsb' 0 7 = c'.leftTrim.extractLsb' 0 7)

/-! ## CHECKSUM -/

/-- R81 and R88: the nine values of the accumulator; CHECKSUM answers a next state that differs only in `checksum_o`, which shows all
64 bits of `ACC8`; with the values of the source's stepwise trace of the reference scenario. -/
def Obligations.ChecksumRunsTheChain : Prop :=
  (∀ (c : Call) (s : State),
    exec (.checksum c) s = .next { s with out := { s.out with checksum := some (nets c).acc8 } }) ∧
  (∀ c : Call,
    (nets c).acc0 = 0x00000000000008FF#64 ∧
    (nets c).acc1 = (nets c).acc0 - c.flags.setWidth 64 ∧
    (nets c).acc2 = (nets c).acc1 - c.yaw.setWidth 64 ∧
    (nets c).acc3 = (nets c).acc2 - c.throttle.setWidth 64 ∧
    (nets c).acc4 = (nets c).acc3 - c.roll.setWidth 64 ∧
    (nets c).acc5 = (nets c).acc4 - c.pitch.setWidth 64 ∧
    (nets c).acc6 = (nets c).acc5 - (nets c).tw ∧
    (nets c).acc7 = (nets c).acc6 - c.rudderTrim.setWidth 64 ∧
    (nets c).acc8 = (nets c).acc7 - c.rightTrim.setWidth 64 ∧
    (nets c).tw = c.leftTrim.setWidth 64 ||| 0xFFFFFFFFFFFFFF80#64) ∧
  (let n := nets ⟨0x01, 0x64, 0x64, 0x64, 0x64, 0x10, 0x10, 0x10⟩
   [n.acc0, n.acc1, n.acc5, n.acc6, n.acc7, n.acc8].map uint = [2303, 2302, 1902, 2014, 1998, 1982])

/-- The closed form of what CHECKSUM leaves on its port, in every state, and the whole trace of the reference scenario. The closed form is
the inference of R84 that the spec marks as its own ("[derived: from rule R81, ...]"), and so are three values of the trace (R81). -/
def Obligations.ChecksumClosedForm : Prop :=
  (∀ (c : Call) (s : State), ∃ t w, exec (.checksum c) s = .next t ∧ t.out.checksum = some w ∧
    sint w = (uint w : Int) ∧
    sint w = 2303 - (plainSum c : Int) - ((low7 c.leftTrim : Int) - 128) ∧
    sint w = 2431 - (plainSum c : Int) - (low7 c.leftTrim : Int) ∧
    plainSum c ≤ 1785 ∧ low7 c.leftTrim ≤ 127) ∧
  plainSum ⟨0x01, 0x64, 0x64, 0x64, 0x64, 0x10, 0x10, 0x10⟩ = 433 ∧
  (trace (nets ⟨0x01, 0x64, 0x64, 0x64, 0x64, 0x10, 0x10, 0x10⟩)).map uint
    = [2303, 2302, 2202, 2102, 2002, 1902, 2014, 1998, 1982] ∧
  checksum ⟨0x01, 0x64, 0x64, 0x64, 0x64, 0x10, 0x10, 0x10⟩ = 0x7BE#64

/-- Every accumulator value of every call lies in its range, read as signed and as unsigned, and both ends are reached (by the calls
V-C3 and V-C2); none of the eight subtractions overflows as a signed one. The table is the inference of R85 that the spec marks as its
own ("[derived: from rule R81; each plain term is 0..255; ...]"). -/
def Obligations.AccumulatorStaysInRange : Prop :=
  (∀ c : Call, ∀ p ∈ (trace (nets c)).zip
      [((2303 : Nat), (2303 : Nat)), (2048, 2303), (1793, 2303), (1538, 2303), (1283, 2303), (1028, 2303), (1029, 2431),
        (774, 2431), (519, 2431)],
    p.2.1 ≤ uint p.1 ∧ uint p.1 ≤ p.2.2 ∧ sint p.1 = (uint p.1 : Int)) ∧
  (trace (nets ⟨0xFF, 0xFF, 0xFF, 0xFF, 0xFF, 0xFF, 0xFF, 0xFF⟩)).map uint
    = [2303, 2048, 1793, 1538, 1283, 1028, 1029, 774, 519] ∧
  (trace (nets ⟨0x00, 0x00, 0x00, 0x00, 0x00, 0x00, 0x00, 0x00⟩)).map uint
    = [2303, 2303, 2303, 2303, 2303, 2303, 2431, 2431, 2431] ∧
  (∀ c : Call, ∀ p ∈ (trace (nets c)).zip (terms c), subOverflows p.1 p.2 = false)

/-- R86: the range of what CHECKSUM leaves on its port, in every state, when its ends are reached, its zero bits, and its three hexadecimal
digits. -/
def Obligations.ChecksumRange : Prop :=
  (∀ (c : Call) (s : State), ∃ t w, exec (.checksum c) s = .next t ∧ t.out.checksum = some w ∧
    519 ≤ uint w ∧ uint w ≤ 2431 ∧ 0 ≤ sint w ∧ w.extractLsb' 12 52 = 0#52 ∧ (hexChars w).length = 3 ∧
    (uint w = 519 ↔ plainSum c = 1785 ∧ (c.leftTrim = 0x7F#8 ∨ c.leftTrim = 0xFF#8)) ∧
    (uint w = 2431 ↔ plainSum c = 0 ∧ (c.leftTrim = 0x00#8 ∨ c.leftTrim = 0x80#8))) ∧
  255 < uint (checksum ⟨0x01, 0x64, 0x64, 0x64, 0x64, 0x10, 0x10, 0x10⟩)

/-- The narrower range of calls that keep the caller's contract, both ends reached. It is the inference of R86 that the spec marks as its
own ("[derived: from rule R84]"). -/
def Obligations.ContractKeepingRange : Prop :=
  (∀ c : Call, c.TrimInRange → 1063 ≤ uint (checksum c) ∧ uint (checksum c) ≤ 2431) ∧
  (∃ c : Call, c.TrimInRange ∧ uint (checksum c) = 1063) ∧ (∃ c : Call, c.TrimInRange ∧ uint (checksum c) = 2431)

/-- R87: subtracting the trimWide term raises the accumulator by `128 - L7`, a number from 1 to 128 that is exactly `2^64 - uint(TW)`, and
the final result is not huge. -/
def Obligations.TrimTermRaisesAccumulator : Prop :=
  (∀ c : Call,
    uint (nets c).acc6 = uint (nets c).acc5 + (128 - low7 c.leftTrim) ∧
    1 ≤ 128 - low7 c.leftTrim ∧ 128 - low7 c.leftTrim ≤ 128 ∧
    2 ^ 64 - uint (nets c).tw = 128 - low7 c.leftTrim ∧ uint (nets c).acc8 ≤ 2431) ∧
  uint (nets ⟨0x01, 0x64, 0x64, 0x64, 0x64, 0x10, 0x10, 0x10⟩).acc6
    = uint (nets ⟨0x01, 0x64, 0x64, 0x64, 0x64, 0x10, 0x10, 0x10⟩).acc5 + 112

/-- Read as unsigned subtractions, the trimWide step always borrows and the seven others never do; the result is the one in unbounded
integers (R83). No operation computes a borrow; the reading is the model's. -/
def Obligations.OnlyTheTrimStepBorrows : Prop :=
  ∀ c : Call,
    ((trace (nets c)).zip (terms c)).map (fun p => borrows p.1 p.2)
      = [false, false, false, false, false, true, false, false] ∧
    sint (nets c).acc8 = 0x8FF - uint c.flags - uint c.yaw - uint c.throttle - uint c.roll - uint c.pitch
      - sint (nets c).tw - uint c.rudderTrim - uint c.rightTrim

/-- The chain subtracts rudderTrim before rightTrim; `ACC8` is the same for any order of the eight terms, and the values before it are
not. That the order does not matter is the inference of R82 that the spec marks as its own ("[derived: from rule R83]"). -/
def Obligations.TermOrderChangesOnlyIntermediates : Prop :=
  (∀ c : Call, (nets c).acc7 = (nets c).acc6 - c.rudderTrim.setWidth 64 ∧
    (nets c).acc8 = (nets c).acc7 - c.rightTrim.setWidth 64) ∧
  (∀ (c : Call) (ts : List Word), ts.Perm (terms c) → ts.foldl sub64 startTerm = (nets c).acc8) ∧
  (∃ c : Call, (nets c).acc6 - c.rightTrim.setWidth 64 ≠ (nets c).acc7) ∧
  (∃ c : Call, (nets c).acc5 - c.rudderTrim.setWidth 64 ≠ (nets c).acc6)

/-- What one more on a field, or the values of two fields exchanged, does to the checksum: the sensitivities of R93, which the spec marks as
its own inference ("[derived: from rule R84]"). -/
def Obligations.ChecksumSensitivity : Prop :=
  (∀ (c : Call) (f : Field), f ≠ .leftTrim → c.get f ≠ 0xFF#8 →
    uint (checksum (c.set f (c.get f + 1))) + 1 = uint (checksum c)) ∧
  (∀ c : Call, c.leftTrim ≠ 0x7F#8 → c.leftTrim ≠ 0xFF#8 →
    uint (checksum (c.set .leftTrim (c.leftTrim + 1))) + 1 = uint (checksum c)) ∧
  (∀ c : Call, c.leftTrim = 0x7F#8 ∨ c.leftTrim = 0xFF#8 →
    uint (checksum (c.set .leftTrim (c.leftTrim + 1))) = uint (checksum c) + 127) ∧
  (∀ (c : Call) (f g : Field), f ≠ .leftTrim → g ≠ .leftTrim →
    checksum ((c.set f (c.get g)).set g (c.get f)) = checksum c) ∧
  uint (checksum ⟨0, 0, 0, 0, 0, 0x90, 0x10, 0⟩) = uint (checksum ⟨0, 0, 0, 0, 0, 0x10, 0x90, 0⟩) + 128

/-- An accumulator of any width from 13 bits up, with `TW` taken as the signed number it denotes, gives the same number: R92, which the
spec marks as its own inference ("[derived: from rules R84, R85; ...]"). -/
def Obligations.ChecksumWidthIndependent : Prop :=
  ∀ (n : Nat) (c : Call), 13 ≤ n → sint (checksumAt n c) = sint (checksum c)

/-- Two calls have the same checksum exactly when they agree in `S + L7`, and different calls do: the sentence of R90 that the spec marks as
its own inference ("[derived: from rule R84]"), with its converse. -/
def Obligations.ChecksumCollisions : Prop :=
  (∀ c c' : Call,
    checksum c = checksum c' ↔ plainSum c + low7 c.leftTrim = plainSum c' + low7 c'.leftTrim) ∧
  (∃ c c' : Call, c ≠ c' ∧ c.leftTrim = c'.leftTrim ∧ checksum c = checksum c')

/-- R89 and R122: on a call that breaks the trim contract the three operations do exactly what they do on any other, in every state; nothing
is clamped, and rightTrim and rudderTrim enter with all eight bits (a value `v` subtracts `v`). -/
def Obligations.ViolatingCallsAreComputed : Prop :=
  (∀ (c : Call) (s : State), c.ContractViolation →
    exec (.trimwide c) s =
      .next { s with out := { s.out with trimWide := some (c.leftTrim.setWidth 64 ||| 0xFFFFFFFFFFFFFF80#64) } } ∧
    exec (.checksum c) s = .next { s with out := { s.out with checksum := some (nets c).acc8 } } ∧
    exec (.frame c) s =
      .next { s with out := { s.out with frame :=
        #v[0xFF#8, 0x08#8, 0x00#8, 0x00#8, 0x00#8, 0x00#8, 0x00#8, 0x00#8, 0x00#8, 0x00#8, 0x00#8] } }) ∧
  (∀ (c : Call) (v : Byte),
    uint (nets { c with rightTrim := v }).acc8 + uint v = uint (nets { c with rightTrim := 0 }).acc8 ∧
    uint (nets { c with rudderTrim := v }).acc8 + uint v = uint (nets { c with rudderTrim := 0 }).acc8)

/-! ## FRAME -/

/-- R100: FRAME answers a next state that differs only in `frame_o`, which shows the eleven fixed bytes, for every call; flattened they are
the rule's word. -/
def Obligations.FrameDrivesItsPort : Prop :=
  (∀ (c : Call) (s : State),
    exec (.frame c) s =
      .next { s with out := { s.out with frame :=
        #v[0xFF#8, 0x08#8, 0x00#8, 0x00#8, 0x00#8, 0x00#8, 0x00#8, 0x00#8, 0x00#8, 0x00#8, 0x00#8] } }) ∧
  frame88 #v[0xFF#8, 0x08#8, 0x00#8, 0x00#8, 0x00#8, 0x00#8, 0x00#8, 0x00#8, 0x00#8, 0x00#8, 0x00#8]
    = 0x00000000000000000008FF#88

/-- R50: byte `i` of a frame occupies `FRAME88[8i+7:8i]`, and the block's frame flattened is the one value the rule gives. -/
def Obligations.FlattenedFrame : Prop :=
  (∀ (f : Frame) (i : Nat) (h : i < 11), (frame88 f).extractLsb' (8 * i) 8 = f[i]) ∧
  frame88 fixedFrame = 0x00000000000000000008FF#88 ∧
  (frame88 fixedFrame).extractLsb' 0 8 = 0xFF#8 ∧ (frame88 fixedFrame).extractLsb' 8 8 = 0x08#8 ∧
  (frame88 fixedFrame).extractLsb' 16 72 = 0#72

/-- Nothing is folded into the payload (R103): whatever is called in whatever state, the frame recorded for the call and the frame shown after
it are header and zeros, so they say nothing of the inputs or of the checksum (the record is the model's, log entry 2). -/
def Obligations.FrameSaysNothingOfTheCall : Prop :=
  ∀ (c : Call) (s t : State) (rest : List HostAct), s.pending = .present c.toPorts :: rest → step s = .next t →
    (∀ (i : Nat) (h : i < 11), t.out.frame[i] = if i = 0 then 0xFF#8 else if i = 1 then 0x08#8 else 0x00#8) ∧
    ∃ o, t.seen = s.seen ++ [.call c o] ∧ o.frame = t.out.frame

/-! ## The constants and reset -/

/-- R13: the hardwired constants, and that every call starts from, masks with and shows them. -/
def Obligations.HardwiredConstants : Prop :=
  Config.k0 = 0x8FF#12 ∧ Config.sxMask = 0xFFFFFFFFFFFFFF80#64 ∧ Config.hdr0 = 0xFF#8 ∧ Config.hdr1 = 0x08#8 ∧
  Config.payload = 0x00#8 ∧ zext64 Config.k0 = 0x00000000000008FF#64 ∧
  ∀ c : Call, (nets c).acc0 = zext64 Config.k0 ∧ (nets c).tw = zext64 c.leftTrim ||| Config.sxMask ∧
    (respond c).frame[0] = Config.hdr0 ∧ (respond c).frame[1] = Config.hdr1 ∧
    ∀ (i : Nat) (h : i < 11), 2 ≤ i → (respond c).frame[i] = Config.payload

/-- Right after power-up `frame_o` shows the fixed frame and the two wide outputs have no value (R17); that no input is driven and
the host's lists are empty is the model's choice (log entries 3 and 6). -/
def Obligations.ResetShowsOnlyTheFrame : Prop :=
  State.reset.out.frame = #v[0xFF#8, 0x08#8, 0x00#8, 0x00#8, 0x00#8, 0x00#8, 0x00#8, 0x00#8, 0x00#8, 0x00#8, 0x00#8] ∧
  State.reset.out.trimWide = none ∧ State.reset.out.checksum = none ∧
  (∀ f : Field, State.reset.inp.get f = none) ∧ State.reset.inp.leftTrim = .undriven ∧
  State.reset.pending = [] ∧ State.reset.seen = []

/-! ## The machine -/

/-- A step on a presented tuple that decodes to a call is `exec` of that call's three operations in turn, from the state with the tuple on the
ports; after them the outputs are those of the tuple, the host samples them, and takes the inputs away (R34, R56, R140; the order is log
entry 5, the record log entry 2, the taking away log entry 17). -/
def Obligations.StepRunsTheDecodedOperations : Prop :=
  ∀ (s : State) (p : InPorts) (c : Call) (rest : List HostAct),
    s.pending = .present p :: rest → decodeTuple p = .ok c →
    ∃ t₁ t₂ t₃,
      exec (.trimwide c) { s with inp := p, pending := rest } = .next t₁ ∧
      exec (.checksum c) t₁ = .next t₂ ∧ exec (.frame c) t₂ = .next t₃ ∧
      t₃.inp = p ∧ t₃.out = outputsFor p ∧
      step s = .next { t₃ with inp := InPorts.undriven, out := outputsFor InPorts.undriven, seen := t₃.seen ++ [.call c t₃.out] }

/-- One call gives its three outputs together, each by its rule and all of one tuple, from every state, and the block's next state is the
unit: the step does what the function of R8 says (R8, R34, R56, R120). The record that holds them is the model's choice (log entry 2). -/
def Obligations.CallGivesItsThreeOutputs : Prop :=
  ∀ (s : State) (c : Call) (rest : List HostAct), s.pending = .present c.toPorts :: rest →
    ∃ t o, step s = .next t ∧ t.pending = rest ∧ t.seen = s.seen ++ [.call c o] ∧
      (t.block, o) = ((blockCall s.block c).1, (blockCall s.block c).2.ports) ∧
      o.trimWide = some (c.leftTrim.setWidth 64 ||| 0xFFFFFFFFFFFFFF80#64) ∧
      o.checksum = some (0x8FF#64 - c.flags.setWidth 64 - c.yaw.setWidth 64 - c.throttle.setWidth 64
        - c.roll.setWidth 64 - c.pitch.setWidth 64 - (c.leftTrim.setWidth 64 ||| 0xFFFFFFFFFFFFFF80#64)
        - c.rudderTrim.setWidth 64 - c.rightTrim.setWidth 64) ∧
      o.frame = #v[0xFF#8, 0x08#8, 0x00#8, 0x00#8, 0x00#8, 0x00#8, 0x00#8, 0x00#8, 0x00#8, 0x00#8, 0x00#8]

/-- The outputs of a call are a function of its eight inputs and of nothing else (R10, R35): two states that share nothing but the tuple
presented next record the same entry, whatever the ports showed and whatever was called before (the record is log entry 2). -/
def Obligations.OutputsDependOnTheCallAlone : Prop :=
  ∀ (s s' t t' : State) (p : InPorts) (rest rest' : List HostAct),
    s.pending = .present p :: rest → s'.pending = .present p :: rest' →
    step s = .next t → step s' = .next t' →
    t.inp = t'.inp ∧ t.out = t'.out ∧ ∃ o, t.seen = s.seen ++ [o] ∧ t'.seen = s'.seen ++ [o]

/-- Nothing is retained from one call to the next (R10, R149): the block's state type has one value; after every step no port carries anything
of what was presented before, `frame_o` being the constant it always is; and two calls made in the same state leave states that differ in the
host's record alone. That the inputs are taken away after the sampling is the model's choice (log entry 17), and so is the record (log entry 2). -/
def Obligations.CallLeavesNothingBehind : Prop :=
  (∀ b b' : BlockState, b = b') ∧
  (∀ s t : State, step s = .next t →
    t.block = s.block ∧ t.inp = InPorts.undriven ∧ t.out.trimWide = none ∧ t.out.checksum = none ∧ t.out.frame = fixedFrame) ∧
  (∀ (s : State) (c c' : Call) (rest : List HostAct), ∃ t t',
    step { s with pending := .present c.toPorts :: rest } = .next t ∧
    step { s with pending := .present c'.toPorts :: rest } = .next t' ∧ t' = { t with seen := t'.seen })

/-- Within a call the operations do not interact (R127): run in any order, from any state, they leave the same state. -/
def Obligations.OperationsCommute : Prop :=
  ∀ (c : Call) (ops : List Instr) (s : State), ops.Perm (operations c) → runOps ops s = runOps (operations c) s

/-- R120: every operation answers a next state in every state, a step on a call answers a next state, and no step answers a fault. -/
def Obligations.NoCallFaultsOrIsRefused : Prop :=
  (∀ (i : Instr) (s : State), ∃ t, exec i s = .next t) ∧
  (∀ (s : State) (c : Call) (rest : List HostAct), s.pending = .present c.toPorts :: rest → ∃ t, step s = .next t) ∧
  (∀ (s : State) (r : Fault), step s ≠ .fault r)

/-- A step is refused exactly when there is no call: no interaction is left, or the tuple presented is incomplete (R142, U10). The
names of the refusals are the model's. -/
def Obligations.RefusedOnlyWithoutACall : Prop :=
  ∀ (s : State) (r : Refusal), step s = .refused r ↔
    (s.pending = [] ∧ r = .noCall) ∨
    (∃ p rest f, s.pending = .present p :: rest ∧ p.get f = none ∧ (∀ g : Field, g.index < f.index → p.get g ≠ none) ∧
      r = .incompleteCall (.undriven f))

/-- The frame condition of the three operations: each writes its own output port, and no input port, no other output port, nothing of the
block's state and nothing of the host's (R70, R80, R100: "State written: none"). -/
def Obligations.OperationsTouchOnlyTheirPort : Prop :=
  ∀ (i : Instr) (s t : State), exec i s = .next t →
    t.block = s.block ∧ t.inp = s.inp ∧ t.pending = s.pending ∧ t.seen = s.seen ∧
    (t.out.trimWide = s.out.trimWide ∨ ∃ c, i = .trimwide c) ∧
    (t.out.checksum = s.out.checksum ∨ ∃ c, i = .checksum c) ∧
    (t.out.frame = s.out.frame ∨ ∃ c, i = .frame c)

/-- Idempotence (R36): an operation done again changes nothing, and a call made again right away shows the same outputs, as the record (log
entry 2) has them. -/
def Obligations.RepeatingChangesNothing : Prop :=
  (∀ (i : Instr) (s t : State), exec i s = .next t → exec i t = .next t) ∧
  (∀ (s t : State) (c : Call) (rest : List HostAct),
    s.pending = .present c.toPorts :: .present c.toPorts :: rest → step s = .next t →
    ∃ u o, step t = .next u ∧ u.inp = t.inp ∧ u.out = t.out ∧
      t.seen = s.seen ++ [.call c o] ∧ u.seen = t.seen ++ [.call c o])

/-- `frame_o` can be read at any time, from every state, with the host providing nothing: the read shows the fixed frame (R105, R131), and
under the invariant leaves `frame_o` as it was (R34); for whatever the inputs carry the port shows that frame. The interaction and the
record are the model's form (log entries 2, 15 and 17). -/
def Obligations.FrameIsReadableAtAnyTime : Prop :=
  (∀ (s : State) (rest : List HostAct), s.pending = .readFrame :: rest →
    step s = .next { block := s.block, inp := InPorts.undriven, out := outputsFor InPorts.undriven, pending := rest,
                     seen := s.seen ++ [.frameRead #v[0xFF#8, 0x08#8, 0x00#8, 0x00#8, 0x00#8, 0x00#8, 0x00#8, 0x00#8, 0x00#8, 0x00#8, 0x00#8]] } ∧
    (s.Inv → s.out.frame = (outputsFor InPorts.undriven).frame)) ∧
  (∀ p : InPorts, (outputsFor p).frame = #v[0xFF#8, 0x08#8, 0x00#8, 0x00#8, 0x00#8, 0x00#8, 0x00#8, 0x00#8, 0x00#8, 0x00#8, 0x00#8])

/-- Each output has a value exactly when the inputs it depends on are driven, and then the value its rule gives (R140, R142), for whatever the
ports carry, complete or not: `trim_wide_o` needs bits 6..0 of `left_trim_i` and nothing else, `checksum_o` all ports but bit 7 of
`left_trim_i`, and neither value depends on that bit; a complete tuple gives the response of its call. With that bit undriven the tuple is
no call all the same. In states that meet the invariant the output ports show exactly these values. -/
def Obligations.DrivenInputsDefineOutputs : Prop :=
  (∀ t : InPorts, (outputsFor t).trimWide.isSome = t.leftTrim.low?.isSome) ∧
  (∀ (t : InPorts) (v : Byte), t.leftTrim.low? = some (v.extractLsb' 0 7) →
    (outputsFor t).trimWide = some (v.setWidth 64 ||| 0xFFFFFFFFFFFFFF80#64)) ∧
  (∀ t : InPorts, (outputsFor t).checksum.isSome =
    (t.leftTrim.low?.isSome && t.flags.isSome && t.yaw.isSome && t.throttle.isSome && t.roll.isSome && t.pitch.isSome
      && t.rightTrim.isSome && t.rudderTrim.isSome)) ∧
  (∀ c : Call,
    outputsFor c.toPorts = (respond c).ports ∧
    outputsFor { c.toPorts with leftTrim := .lowOnly (c.leftTrim.extractLsb' 0 7) } = (respond c).ports ∧
    decodeTuple { c.toPorts with leftTrim := .lowOnly (c.leftTrim.extractLsb' 0 7) } = .error (.undriven .leftTrim)) ∧
  (∀ s : State, s.Inv →
    (∀ w, s.out.trimWide = some w ↔
      ∃ v : Byte, s.inp.leftTrim.low? = some (v.extractLsb' 0 7) ∧ w = v.setWidth 64 ||| 0xFFFFFFFFFFFFFF80#64) ∧
    (s.inp.complete = true → s.out.checksum.isSome = true) ∧
    (∀ c : Call, s.inp = c.toPorts → s.out.checksum = some (nets c).acc8))

/-- R121: a call is a ContractViolation exactly when a trim is above `0x1F`; flags and the four controls cannot violate the contract; and it
is exactly a call outside the precondition `TrimInRange` of R123. -/
def Obligations.ContractIsAboutTheTrims : Prop :=
  (∀ c : Call, c.ContractViolation ↔ uint c.leftTrim > 0x1F ∨ uint c.rightTrim > 0x1F ∨ uint c.rudderTrim > 0x1F) ∧
  (∀ (c : Call) (f : Field) (v : Byte), f ≠ .leftTrim → f ≠ .rightTrim → f ≠ .rudderTrim →
    ((c.set f v).ContractViolation ↔ c.ContractViolation)) ∧
  (∀ c : Call, c.ContractViolation ↔ ¬ c.TrimInRange)

/-- After reset the invariant of the boundary holds. -/
def Obligations.InvariantHoldsAtReset : Prop := State.reset.Inv

/-- Every step keeps the invariant of the boundary: the outputs shown are those of the inputs shown, all of one tuple, and every entry of
the record is right (R34, R140, R142). The record is the model's choice (log entry 2). -/
def Obligations.EveryStepKeepsTheInvariant : Prop :=
  ∀ s t : State, s.Inv → step s = .next t → t.Inv

/-- A run (R149): from any state, the host's calls, as many as it makes, are all performed, one a step, and the record grows by one entry a
call, in order, each with the outputs of its own inputs (R8, R35). The lists are the model's choice (log entry 2). -/
def Obligations.RunObservesEveryCall : Prop :=
  ∀ (cs : List Call) (s : State) (rest : List HostAct),
    s.pending = cs.map (fun c => HostAct.present c.toPorts) ++ rest →
    ∃ t : State, Host.Core.run Sys2Proof.core cs.length s = .next t ∧ t.pending = rest ∧
      t.seen = s.seen ++ cs.map (fun c => Observation.call c (respond c).ports)

/-- Calls may be made in any order (R35): a host that makes the same calls in another order, from whatever other state, sees the same
(inputs, outputs) pairs, in its own order. -/
def Obligations.CallOrderIsUnobservable : Prop :=
  ∀ (cs ds : List Call) (s s' : State), cs.Perm ds → s.seen = [] → s'.seen = [] →
    s.pending = cs.map (fun c => HostAct.present c.toPorts) →
    s'.pending = ds.map (fun c => HostAct.present c.toPorts) →
    ∃ t t' : State, Host.Core.run Sys2Proof.core cs.length s = .next t ∧
      Host.Core.run Sys2Proof.core ds.length s' = .next t' ∧ t.seen.Perm t'.seen

/-! ## Caller-side views -/

/-- The byte view is the low eight bits, `result & 0xFF`; of a checksum it always loses set bits. The loss is the inference of R110 that the
spec marks as its own ("[derived: 519 > 255]"). -/
def Obligations.ByteViewLosesBits : Prop :=
  (∀ v : Word, trunc8 v = v.extractLsb' 0 8 ∧ zext64 (trunc8 v) = v &&& 0xFF#64) ∧
  (∀ c : Call, (checksum c).extractLsb' 8 4 ≠ 0#4 ∧ zext64 (trunc8 (checksum c)) ≠ checksum c) ∧
  trunc8 (checksum ⟨0x01, 0x64, 0x64, 0x64, 0x64, 0x10, 0x10, 0x10⟩) = 0xBE#8

/-- R111: the text of a checksum is made of the digits `0`-`9` and lowercase `a`-`f`, most significant first, denotes the checksum's number, and
has no leading zero; the reference scenario prints `7be`. -/
def Obligations.ChecksumTextIsPlainLowercaseHex : Prop :=
  (∀ c : Call,
    (∀ ch ∈ (hexText (checksum c)).toList,
      ch ∈ ['0', '1', '2', '3', '4', '5', '6', '7', '8', '9', 'a', 'b', 'c', 'd', 'e', 'f']) ∧
    (hexText (checksum c)).toList.foldl
      (fun n ch => 16 * n + (if ch.toNat < 58 then ch.toNat - 48 else ch.toNat - 87)) 0 = uint (checksum c) ∧
    (hexText (checksum c)).toList.head? ≠ some '0') ∧
  hexText (checksum ⟨0x01, 0x64, 0x64, 0x64, 0x64, 0x10, 0x10, 0x10⟩) = "7be"

/-- The text of any word denotes the word read as unsigned, with no leading zero but `0` for zero (both general knowledge of the spec's writer,
G1 and G2; log entry 13); three characters for a checksum and sixteen for a trimWide (inferences of R111 and R112 that the spec marks as
its own: "[derived: ...]"). -/
def Obligations.HexTextSpellsEveryWord : Prop :=
  (∀ v : Word,
    (hexChars v).foldl (fun n ch => 16 * n + (if ch.toNat < 58 then ch.toNat - 48 else ch.toNat - 87)) 0 = uint v ∧
    ((hexChars v).head? = some '0' ↔ v = 0) ∧ (v = 0 → hexText v = "0") ∧ (hexText v).toList = hexChars v) ∧
  (∀ c : Call, (hexText (checksum c)).toList.length = 3) ∧
  (∀ v : Byte, (hexText (trimWide v)).toList.length = 16) ∧
  hexText (trimWide 0x10) = "ffffffffffffff90"
end

