-- ==== Sys2Proof/Laws/PerInstr.lean ====
section
/-! SUPPORT. Families of statements about every operation as syntax, one lemma for each constructor. -/

namespace Sys2Proof.Laws.Presented

/-- The tuple an operation's call puts on the ports is complete and is that call again, and the operation is among those
the call performs (`30_encoding.md` R45, R56). -/
def Statement (i : Instr) : Prop :=
  i.wellFormed = true ∧ decodeTuple i.call.toPorts = .ok i.call ∧ i ∈ operations i.call

theorem trimwide (c : Call) : Statement (.trimwide c) := ⟨rfl, rfl, by simp [operations, Instr.call]⟩

theorem checksum (c : Call) : Statement (.checksum c) := ⟨rfl, rfl, by simp [operations, Instr.call]⟩

theorem frame (c : Call) : Statement (.frame c) := ⟨rfl, rfl, by simp [operations, Instr.call]⟩

end Sys2Proof.Laws.Presented
end

