-- ==== Sys2Proof/Laws/State.lean ====
section
/-! SUPPORT. One lemma for each field and each update of the state, true by unfolding, so that no later proof unfolds a record
update. -/

namespace Sys2Proof.Machine

variable (s : State) (w : Word) (f : Frame) (c : Call) (a : HostAct) (rest : List HostAct)

@[simp] theorem State.driveTrimWide_block : (s.driveTrimWide w).block = s.block := rfl
@[simp] theorem State.driveTrimWide_inp : (s.driveTrimWide w).inp = s.inp := rfl
@[simp] theorem State.driveTrimWide_trimWide : (s.driveTrimWide w).out.trimWide = some w := rfl
@[simp] theorem State.driveTrimWide_checksum : (s.driveTrimWide w).out.checksum = s.out.checksum := rfl
@[simp] theorem State.driveTrimWide_frame : (s.driveTrimWide w).out.frame = s.out.frame := rfl
@[simp] theorem State.driveTrimWide_pending : (s.driveTrimWide w).pending = s.pending := rfl
@[simp] theorem State.driveTrimWide_seen : (s.driveTrimWide w).seen = s.seen := rfl

@[simp] theorem State.driveChecksum_block : (s.driveChecksum w).block = s.block := rfl
@[simp] theorem State.driveChecksum_inp : (s.driveChecksum w).inp = s.inp := rfl
@[simp] theorem State.driveChecksum_trimWide : (s.driveChecksum w).out.trimWide = s.out.trimWide := rfl
@[simp] theorem State.driveChecksum_checksum : (s.driveChecksum w).out.checksum = some w := rfl
@[simp] theorem State.driveChecksum_frame : (s.driveChecksum w).out.frame = s.out.frame := rfl
@[simp] theorem State.driveChecksum_pending : (s.driveChecksum w).pending = s.pending := rfl
@[simp] theorem State.driveChecksum_seen : (s.driveChecksum w).seen = s.seen := rfl

@[simp] theorem State.driveFrame_block : (s.driveFrame f).block = s.block := rfl
@[simp] theorem State.driveFrame_inp : (s.driveFrame f).inp = s.inp := rfl
@[simp] theorem State.driveFrame_trimWide : (s.driveFrame f).out.trimWide = s.out.trimWide := rfl
@[simp] theorem State.driveFrame_checksum : (s.driveFrame f).out.checksum = s.out.checksum := rfl
@[simp] theorem State.driveFrame_frame : (s.driveFrame f).out.frame = f := rfl
@[simp] theorem State.driveFrame_pending : (s.driveFrame f).pending = s.pending := rfl
@[simp] theorem State.driveFrame_seen : (s.driveFrame f).seen = s.seen := rfl

@[simp] theorem State.presentCall_block : (s.presentCall c rest).block = s.block := rfl
@[simp] theorem State.presentCall_inp : (s.presentCall c rest).inp = c.toPorts := rfl
@[simp] theorem State.presentCall_out : (s.presentCall c rest).out = s.out := rfl
@[simp] theorem State.presentCall_pending : (s.presentCall c rest).pending = rest := rfl
@[simp] theorem State.presentCall_seen : (s.presentCall c rest).seen = s.seen := rfl

@[simp] theorem State.recordCall_block : (s.recordCall c).block = s.block := rfl
@[simp] theorem State.recordCall_inp : (s.recordCall c).inp = s.inp := rfl
@[simp] theorem State.recordCall_out : (s.recordCall c).out = s.out := rfl
@[simp] theorem State.recordCall_pending : (s.recordCall c).pending = s.pending := rfl
@[simp] theorem State.recordCall_seen : (s.recordCall c).seen = s.seen ++ [.call c s.out] := rfl

@[simp] theorem State.recordFrame_block : (s.recordFrame rest).block = s.block := rfl
@[simp] theorem State.recordFrame_inp : (s.recordFrame rest).inp = s.inp := rfl
@[simp] theorem State.recordFrame_out : (s.recordFrame rest).out = s.out := rfl
@[simp] theorem State.recordFrame_pending : (s.recordFrame rest).pending = rest := rfl
@[simp] theorem State.recordFrame_seen : (s.recordFrame rest).seen = s.seen ++ [.frameRead s.out.frame] := rfl

@[simp] theorem State.release_block : s.release.block = s.block := rfl
@[simp] theorem State.release_inp : s.release.inp = InPorts.undriven := rfl
@[simp] theorem State.release_out : s.release.out = outputsFor InPorts.undriven := rfl
@[simp] theorem State.release_pending : s.release.pending = s.pending := rfl
@[simp] theorem State.release_seen : s.release.seen = s.seen := rfl

@[simp] theorem State.pushAct_block : (s.pushAct a).block = s.block := rfl
@[simp] theorem State.pushAct_inp : (s.pushAct a).inp = s.inp := rfl
@[simp] theorem State.pushAct_out : (s.pushAct a).out = s.out := rfl
@[simp] theorem State.pushAct_pending : (s.pushAct a).pending = a :: s.pending := rfl
@[simp] theorem State.pushAct_seen : (s.pushAct a).seen = s.seen := rfl

end Sys2Proof.Machine
end

