-- ==== Sys2Proof/Laws/Step.lean ====
section
/-! SUPPORT. Everything a call and a step can do, said once; later proofs cite these instead of unfolding `step`. -/

namespace Sys2Proof.Machine

/-- The tuple of a call is that call. -/
theorem decodeTuple_toPorts (c : Call) : decodeTuple c.toPorts = .ok c := rfl

/-- The three operations of a call, run in the table's order. -/
theorem runOps_operations (c : Call) (s : State) :
    runOps (operations c) s
      = .next (((s.driveTrimWide (trimWide c.leftTrim)).driveChecksum (checksum c)).driveFrame fixedFrame) := rfl

/-- With no input driven only `frame_o` has a value (R105, R142). -/
theorem outputsFor_undriven :
    outputsFor InPorts.undriven = { trimWide := none, checksum := none, frame := fixedFrame } := rfl

/-- Everything a call does: one entry more in the host's record, and no port carries anything of it afterwards. -/
theorem stepCall_eq (c : Call) (rest : List HostAct) (s : State) :
    stepCall c rest s
      = .next { block := s.block, inp := InPorts.undriven, out := outputsFor InPorts.undriven, pending := rest,
                seen := s.seen ++ [.call c (respond c).ports] } := rfl

/-- Everything a step that answers a next state can have done: a call, or a read of the frame. -/
theorem step_next_cases {s t : State} (h : step s = .next t) :
    (∃ p c rest, s.pending = .present p :: rest ∧ decodeTuple p = .ok c ∧
        t = { block := s.block, inp := InPorts.undriven, out := outputsFor InPorts.undriven, pending := rest,
              seen := s.seen ++ [.call c (respond c).ports] }) ∨
    (∃ rest, s.pending = .readFrame :: rest ∧ t = s.release.recordFrame rest) := by
  unfold step at h
  split at h
  · cases h
  · rename_i rest hp
    cases h
    exact .inr ⟨rest, hp, rfl⟩
  · rename_i p rest hp
    unfold stepPresent at h
    split at h
    · rename_i c hc
      rw [stepCall_eq] at h
      cases h
      exact .inl ⟨p, c, rest, hp, hc, rfl⟩
    · cases h

end Sys2Proof.Machine
end

