-- ==== Sys2Proof/Laws/Values.lean ====
section
/-! SUPPORT. What the operands and the OR-mask amount to as numbers: the lemmas that turn a claim about the accumulator
into arithmetic. -/

namespace Sys2Proof.Machine

/-- A plain term is the field's number (R51 b). -/
theorem plainTerm_toNat (v : Byte) : (plainTerm v).toNat = v.toNat := by
  have := v.isLt
  simp only [plainTerm, zext64, BitVec.toNat_setWidth]
  omega

/-- The first value of the accumulator is 2303 (R51 c, R81). -/
theorem startTerm_toNat : startTerm.toNat = 2303 := by decide

/-- The number in the low seven bits of a byte. -/
theorem low7_eq_mod (v : Byte) : low7 v = v.toNat % 128 := by
  simp [low7, uint, BitVec.extractLsb'_toNat]

/-- The low seven bits denote a number of at most 127 (R84). -/
theorem low7_le (v : Byte) : low7 v ≤ 127 := by
  rw [low7_eq_mod]
  omega

/-- A step of the accumulator that does not borrow is a subtraction of natural numbers (R83). -/
theorem sub64_toNat_of_le {a b : Word} (h : b.toNat ≤ a.toNat) : (sub64 a b).toNat = a.toNat - b.toNat :=
  BitVec.toNat_sub_of_le h

/-- A step of the accumulator, also where it borrows: the borrow is discarded (R83). -/
theorem sub64_toNat (a b : Word) : (sub64 a b).toNat = (2 ^ 64 - b.toNat + a.toNat) % 2 ^ 64 :=
  BitVec.toNat_sub a b

/-- A word below 2^63 denotes the same number read as signed and as unsigned (R7). -/
theorem sint_eq_uint_of_lt {w : Word} (h : w.toNat < 2 ^ 63) : w.toInt = w.toNat := by
  rw [BitVec.toInt_eq_toNat_of_lt]
  omega

/-- `TW` as an unsigned number: the mask and, below it, the low seven bits of leftTrim (R71, R87). -/
theorem trimWide_toNat (v : Byte) : (trimWide v).toNat = 2 ^ 64 - 128 + low7 v := by
  revert v; decide

/-- TRIMWIDE computed from bits 6..0 alone (R73, R142). -/
theorem trimWide_lowByte (v : Byte) : trimWide (lowByte (v.extractLsb' 0 7)) = trimWide v := by
  revert v; decide

/-- The chain reads leftTrim through `TW` alone (R81). -/
theorem nets_congr_leftTrim (c : Call) (v : Byte) (h : trimWide v = trimWide c.leftTrim) :
    nets { c with leftTrim := v } = nets c := by
  simp only [nets, h]

/-- On a complete tuple the outputs are the response of its call (R8, R140). -/
theorem outputsFor_toPorts (c : Call) : outputsFor c.toPorts = (respond c).ports := by
  have h := trimWide_lowByte c.leftTrim
  simp [outputsFor, checksumInputs, Call.toPorts, LeftTrimPort.low?, respond, Response.ports, checksum, h,
    nets_congr_leftTrim c _ h]

end Sys2Proof.Machine
end

