-- ==== Sys2Proof/Tests/Slice0.lean ====
section
/-! SUPPORT. The model's own tests, expected results from `95_test_vectors.md`, and a witness for the hypotheses of each statement
that has any. -/

namespace Sys2Proof.Tests

open Sys2Proof.Machine

/-- The call of the source's reference scenario (V-C1). -/
def reference : Call := ⟨0x01, 0x64, 0x64, 0x64, 0x64, 0x10, 0x10, 0x10⟩

/-- A call of eight distinct bytes (V-C12). -/
def mixed : Call := ⟨0x80, 0x12, 0x34, 0x56, 0x78, 0x05, 0x0A, 0x0F⟩

/-- The call whose every byte is `0xFF` (V-C3), a ContractViolation. -/
def extreme : Call := ⟨0xFF, 0xFF, 0xFF, 0xFF, 0xFF, 0xFF, 0xFF, 0xFF⟩

/-- A host that has these calls to make after power-up. -/
def host (cs : List Call) : State := { State.reset with pending := cs.map fun c => .present c.toPorts }

/-- The outcome is a next state with this property. -/
def after (o : Host.Outcome State Fault Refusal) (p : State → Bool) : Bool :=
  match o with
  | .next t => p t
  | _ => false

/-! ## Well-formedness: a tuple with any one port undriven is refused (R142) -/

theorem test_complete_tuple : mixed.toPorts.complete = true := by decide
theorem test_flags_undriven : InPorts.complete { mixed.toPorts with flags := none } = false := by decide
theorem test_yaw_undriven : InPorts.complete { mixed.toPorts with yaw := none } = false := by decide
theorem test_throttle_undriven : InPorts.complete { mixed.toPorts with throttle := none } = false := by decide
theorem test_roll_undriven : InPorts.complete { mixed.toPorts with roll := none } = false := by decide
theorem test_pitch_undriven : InPorts.complete { mixed.toPorts with pitch := none } = false := by decide
theorem test_leftTrim_undriven : InPorts.complete { mixed.toPorts with leftTrim := .undriven } = false := by decide
theorem test_leftTrim_bit7_undriven : InPorts.complete { mixed.toPorts with leftTrim := .lowOnly 0x05 } = false := by decide
theorem test_rightTrim_undriven : InPorts.complete { mixed.toPorts with rightTrim := none } = false := by decide
theorem test_rudderTrim_undriven : InPorts.complete { mixed.toPorts with rudderTrim := none } = false := by decide

/-- A step on such a tuple is refused by the name of the port (R142, U10). -/
theorem test_incomplete_step :
    step { State.reset with pending := [.present { mixed.toPorts with leftTrim := .undriven }] }
      = .refused (.incompleteCall (.undriven .leftTrim)) := rfl

/-! ## Decoding: words written out bit by bit from R47, byte `k` field `k` -/

/-- rudderTrim 0x0F, rightTrim 0x0A, leftTrim 0x05, pitch 0x78, roll 0x56, throttle 0x34, yaw 0x12, flags 0x80 (V-C12). -/
theorem test_decode_trimwide :
    .trimwide mixed ∈ operations
      (decodeWord 0b0000111100001010000001010111100001010110001101000001001010000000#64) := by decide

/-- The same word read for CHECKSUM, through the opcode table's numbering. -/
theorem test_decode_checksum :
    decodeTableWord 64 0b0000111100001010000001010111100001010110001101000001001010000000 = some (.checksum mixed) := by
  decide

/-- The reference scenario's word (R47) read for FRAME. -/
theorem test_decode_frame : .frame reference ∈ operations (decodeWord 0x1010106464646401#64) := by decide

/-- The encoder on V-C9: rudderTrim and rightTrim are not swapped. -/
theorem test_encode_trims :
    encode (.checksum ⟨0x00, 0x00, 0x00, 0x00, 0x00, 0x00, 0x05, 0x09⟩) = 0x0905000000000000#64 := by decide

theorem test_short_bytes : decode [1, 2, 3, 4, 5, 6, 7] = .error (.truncated 7) := rfl

/-- Bits above a short `nbits` are zero, and nine bytes are no call. -/
theorem test_table_lengths :
    decodeTableWord 8 0x180 = some (.checksum ⟨0x80, 0, 0, 0, 0, 0, 0, 0⟩) ∧ decodeTableWord 72 0 = none := by decide

/-! ## The operations: one step each -/

/-- V-T6: the first ContractViolation value is computed all the same. -/
theorem test_trimwide_violation :
    after (exec (.trimwide { mixed with leftTrim := 0x20 }) State.reset)
      (fun t => t.out.trimWide == some 0xFFFFFFFFFFFFFFA0#64 && t.out.checksum == none) = true := by decide

/-- V-T12: bit 7 ignored. -/
theorem test_trimwide_bit7 :
    after (exec (.trimwide { mixed with leftTrim := 0x90 }) State.reset)
      (fun t => t.out.trimWide == some 0xFFFFFFFFFFFFFF90#64) = true := by decide

/-- V-C12. -/
theorem test_checksum_mixed :
    after (exec (.checksum mixed) State.reset)
      (fun t => t.out.checksum == some 1997#64 && t.out.trimWide == none) = true := by decide

/-- V-C9 and V-C10: the trace shows rudderTrim subtracted before rightTrim. -/
theorem test_checksum_order :
    (nets ⟨0x00, 0x00, 0x00, 0x00, 0x00, 0x00, 0x05, 0x09⟩).acc7 = 2422#64 ∧
    (nets ⟨0x00, 0x00, 0x00, 0x00, 0x00, 0x00, 0x09, 0x05⟩).acc7 = 2426#64 := by decide

/-- V-F4, false variants refuted: no input and no checksum byte stands in the payload. -/
theorem test_frame_payload :
    after (exec (.frame mixed) State.reset)
      (fun t => t.out.frame[0] == 0xFF#8 && t.out.frame[1] == 0x08#8 && t.out.frame[2] == 0x00#8 && t.out.frame[10] == 0x00#8)
      = true := by decide

/-! ## Steps and views -/

/-- P1 as the first step after reset, through the host's own door. -/
theorem test_step_reference :
    after (step (State.reset.withFetchWord 64 0x1010106464646401))
      (fun t => t.seen == [.call reference { trimWide := some 0xFFFFFFFFFFFFFF90#64, checksum := some 0x7BE#64, frame := fixedFrame }]
        && t.pending == []) = true := by decide

/-- R142: with only bit 7 of leftTrim undriven (V-C12's other bits) the outputs have their values; with bits 6..0 undriven, none. -/
theorem test_bit7_undriven_outputs :
    outputsFor { mixed.toPorts with leftTrim := .lowOnly 0x05 }
      = { trimWide := some 0xFFFFFFFFFFFFFF85#64, checksum := some 1997#64, frame := fixedFrame } ∧
    outputsFor { mixed.toPorts with leftTrim := .undriven } = { trimWide := none, checksum := none, frame := fixedFrame } ∧
    outputsFor { InPorts.undriven with leftTrim := .lowOnly 0x05 }
      = { trimWide := some 0xFFFFFFFFFFFFFF85#64, checksum := none, frame := fixedFrame } := by decide

/-- P3: after a call nothing of it is on the ports, and the next call's outputs are its own (R10). -/
theorem test_nothing_retained :
    after (step (host [extreme, mixed])) (fun t => t.inp == InPorts.undriven && t.out == State.reset.out
      && after (step t) (fun u => u.seen == t.seen ++ [.call mixed
          { trimWide := some 0xFFFFFFFFFFFFFF85#64, checksum := some 1997#64, frame := fixedFrame }])) = true := by decide

/-- With nothing pending there is no call. -/
theorem test_step_no_call : step State.reset = .refused .noCall := rfl

/-- `frame_o` is read before any call (R105). -/
theorem test_read_frame :
    after (step { State.reset with pending := [.readFrame] })
      (fun t => t.seen == [.frameRead fixedFrame] && t.out.checksum == none) = true := by decide

/-- V-V5 and V-V4. -/
theorem test_views : hexText 0x7AB#64 = "7ab" ∧ trunc8 0x900#64 = 0x00#8 := by decide

/-- V-V6. -/
theorem test_view_unsigned : hexText 0xFFFFFFFFFFFFFF90#64 = "ffffffffffffff90" := by decide

/-! ## Witnesses: every statement with hypotheses has them met together -/

theorem witness_DecodeEncodeAgree :
    (Instr.checksum mixed).wellFormed = true ∧ .frame (decodeWord 0#64) ∈ operations (decodeWord 0#64) := by decide

theorem witness_BytesDecodeByLength :
    ([1, 2, 3, 4, 5, 6, 7] : List Byte).length < 8 ∧ 8 ≤ ([1, 2, 3, 4, 5, 6, 7, 8] : List Byte).length := by decide

theorem witness_TupleIsACallWhenComplete :
    decodeTuple mixed.toPorts = .ok mixed ∧
    decodeTuple { mixed.toPorts with rudderTrim := none } = .error (.undriven .rudderTrim) ∧
    decodeTuple InPorts.undriven = .error (.undriven .flags) := ⟨rfl, rfl, rfl⟩

theorem witness_TableWordRunsAsItsCall : (0xFFFFFFFFFFFFFFFF : Nat) < 2 ^ 64 := by decide

theorem witness_TrimwideBitFormAndValue :
    uint ({ mixed with leftTrim := 0x1F } : Call).leftTrim ≤ 0x1F ∧ ¬ uint ({ mixed with leftTrim := 0x20 } : Call).leftTrim ≤ 0x1F := by
  decide

theorem witness_LeftTrimBitSevenIgnored :
    (0x10#8 : Byte) = ({ mixed with leftTrim := 0x90 } : Call).leftTrim &&& 0x7F#8 ∧
    (0x90#8 : Byte) = reference.leftTrim ||| 0x80#8 := by decide

theorem witness_TrimwideShowsExactlyLowSeven :
    exec (.trimwide reference) State.reset = .next (State.reset.driveTrimWide (trimWide reference.leftTrim)) ∧
    exec (.trimwide mixed) (host [mixed]) = .next ((host [mixed]).driveTrimWide (trimWide mixed.leftTrim)) := ⟨rfl, rfl⟩

theorem witness_AccumulatorStaysInRange :
    ((2431#64 : Word), ((519 : Nat), (2431 : Nat))) ∈ (trace (nets ⟨0, 0, 0, 0, 0, 0, 0, 0⟩)).zip
      [((2303 : Nat), (2303 : Nat)), (2048, 2303), (1793, 2303), (1538, 2303), (1283, 2303), (1028, 2303), (1029, 2431),
        (774, 2431), (519, 2431)] ∧
    (nets reference).acc5 = ((trace (nets reference)).zip (terms reference))[5].1 := by decide

theorem witness_ChecksumRange :
    (plainSum extreme = 1785 ∧ extreme.leftTrim = 0xFF#8) ∧
    (plainSum ⟨0, 0, 0, 0, 0, 0x80, 0, 0⟩ = 0) ∧
    uint (checksum extreme) = 519 ∧ uint (checksum ⟨0, 0, 0, 0, 0, 0x80, 0, 0⟩) = 2431 := by decide

theorem witness_ContractKeepingRange : reference.TrimInRange ∧ ({ reference with leftTrim := 0x1F } : Call).TrimInRange := by
  decide

theorem witness_TermOrderChangesOnlyIntermediates : (terms reference).reverse.Perm (terms reference) :=
  List.reverse_perm _

theorem witness_ChecksumSensitivity :
    (Field.rudderTrim ≠ .leftTrim ∧ ({ mixed with rudderTrim := 0xFE } : Call).get .rudderTrim ≠ 0xFF#8) ∧
    (mixed.leftTrim ≠ 0x7F#8 ∧ mixed.leftTrim ≠ 0xFF#8) ∧
    ({ mixed with leftTrim := 0x7F } : Call).leftTrim = 0x7F#8 ∧ extreme.leftTrim = 0xFF#8 ∧ Field.flags ≠ .leftTrim := by decide

theorem witness_ChecksumWidthIndependent : 13 ≤ 13 ∧ sint (checksumAt 13 extreme) = 519 := by decide

theorem witness_ViolatingCallsAreComputed :
    extreme.ContractViolation ∧ ({ reference with rudderTrim := 0x20 } : Call).ContractViolation ∧
    ¬ ({ reference with rudderTrim := 0x1F } : Call).ContractViolation := by decide

theorem witness_FlattenedFrame : 10 < 11 ∧ fixedFrame[10] = 0x00#8 := by decide

theorem witness_HardwiredConstants : 2 < 11 ∧ 2 ≤ 2 ∧ (respond extreme).frame[2] = Config.payload := by decide

theorem witness_FrameSaysNothingOfTheCall :
    (host [extreme]).pending = .present extreme.toPorts :: [] ∧
    step (host [extreme]) = .next
      { block := (), inp := InPorts.undriven, out := outputsFor InPorts.undriven, pending := [],
        seen := [.call extreme (respond extreme).ports] } := ⟨rfl, rfl⟩

theorem witness_StepRunsTheDecodedOperations :
    (host [mixed]).pending = .present mixed.toPorts :: [] ∧ decodeTuple mixed.toPorts = .ok mixed := ⟨rfl, rfl⟩

theorem witness_CallGivesItsThreeOutputs :
    (host [reference, mixed]).pending = .present reference.toPorts :: [.present mixed.toPorts] := rfl

theorem witness_OutputsDependOnTheCallAlone :
    (host [mixed]).pending = .present mixed.toPorts :: [] ∧
    (host [mixed, extreme]).pending = .present mixed.toPorts :: [.present extreme.toPorts] ∧
    (∃ t, step (host [mixed]) = .next t) ∧ (∃ t, step (host [mixed, extreme]) = .next t) :=
  ⟨rfl, rfl, ⟨_, rfl⟩, ⟨_, rfl⟩⟩

theorem witness_OperationsCommute : [Instr.frame mixed, .checksum mixed, .trimwide mixed].Perm (operations mixed) :=
  (List.reverse_perm (operations mixed))

theorem witness_NoCallFaultsOrIsRefused : (host [extreme]).pending = .present extreme.toPorts :: [] := rfl

theorem witness_RefusedOnlyWithoutACall :
    State.reset.pending = [] ∧ InPorts.undriven.get .flags = none ∧
    InPorts.get { mixed.toPorts with yaw := none } .yaw = none ∧ InPorts.get { mixed.toPorts with yaw := none } .flags ≠ none := by
  decide

theorem witness_OperationsTouchOnlyTheirPort :
    exec (.frame mixed) State.reset = .next (State.reset.driveFrame fixedFrame) ∧
    exec (.checksum mixed) State.reset = .next (State.reset.driveChecksum (checksum mixed)) := ⟨rfl, rfl⟩

theorem witness_RepeatingChangesNothing :
    (host [mixed, mixed]).pending = .present mixed.toPorts :: .present mixed.toPorts :: [] ∧
    (∃ t, step (host [mixed, mixed]) = .next t) ∧ (∃ t, exec (.trimwide mixed) State.reset = .next t) :=
  ⟨rfl, ⟨_, rfl⟩, ⟨_, rfl⟩⟩

/-- A state in the middle of a run: a call still on the ports and recorded, a read of the frame to come. -/
def midRun : State :=
  { block := (), inp := mixed.toPorts, out := (respond mixed).ports, pending := [.readFrame], seen := [.call mixed (respond mixed).ports] }

theorem witness_FrameIsReadableAtAnyTime : midRun.pending = .readFrame :: [] ∧ midRun.Inv := by decide

theorem witness_DrivenInputsDefineOutputs :
    (LeftTrimPort.lowOnly 0x7F).low? = some ((0xFF#8 : Byte).extractLsb' 0 7) ∧
    mixed.toPorts.leftTrim.low? = some (mixed.leftTrim.extractLsb' 0 7) ∧
    midRun.Inv ∧ midRun.inp = mixed.toPorts ∧ midRun.inp.complete = true ∧ State.reset.Inv := by decide

theorem witness_CallLeavesNothingBehind :
    (∃ t, step (host [extreme]) = .next t) ∧ (∃ t, step midRun = .next t) := ⟨⟨_, rfl⟩, ⟨_, rfl⟩⟩

theorem witness_EveryStepKeepsTheInvariant : midRun.Inv ∧ after (step midRun) (fun t => t.seen.length == 2) = true := by decide

theorem witness_RunObservesEveryCall :
    (host [reference, mixed]).pending = [reference, mixed].map (fun c => HostAct.present c.toPorts) ++ [] := rfl

theorem witness_CallOrderIsUnobservable :
    [reference, mixed].Perm [mixed, reference] ∧ (host [reference, mixed]).seen = [] ∧ (host [mixed, reference]).seen = [] ∧
    (host [reference, mixed]).pending = [reference, mixed].map (fun c => HostAct.present c.toPorts) ∧
    (host [mixed, reference]).pending = [mixed, reference].map (fun c => HostAct.present c.toPorts) :=
  ⟨List.Perm.swap _ _ _, rfl, rfl, rfl, rfl⟩

theorem witness_ContractIsAboutTheTrims :
    Field.pitch ≠ .leftTrim ∧ Field.pitch ≠ .rightTrim ∧ Field.pitch ≠ .rudderTrim ∧ (extreme.set .pitch 0).ContractViolation := by
  decide

theorem witness_EveryWordPerformsTheThree : .trimwide extreme ∈ operations (decodeWord 0xFFFFFFFFFFFFFFFF#64) := by decide

theorem witness_hexText_digits : 'b' ∈ (hexText (checksum reference)).toList := by decide

end Sys2Proof.Tests
end

section
/-! The hardwired constants (`10_state.md` R13): where each of them stands in the nets and in the frame of a call. -/

namespace Sys2Proof.Machine

/-- The chain of every call starts from the same value (R51 c, R81). -/
@[simp] theorem nets_acc0 (c : Call) : (nets c).acc0 = startTerm := rfl

/-- The net `TW` of a call is TRIMWIDE of its leftTrim (R81). -/
@[simp] theorem nets_tw (c : Call) : (nets c).tw = trimWide c.leftTrim := rfl

/-- The frame of a response says nothing of the call (R100, R103). -/
@[simp] theorem respond_frame (c : Call) : (respond c).frame = fixedFrame := rfl

/-- The first header byte (R49). -/
@[simp] theorem fixedFrame_getElem_zero : fixedFrame[0] = Config.hdr0 := rfl

/-- The second header byte (R49). -/
@[simp] theorem fixedFrame_getElem_one : fixedFrame[1] = Config.hdr1 := rfl

/-- The fixed frame is its two header bytes and, after them, nine times the one payload byte (R49). -/
theorem fixedFrame_eq_append :
    fixedFrame = #v[Config.hdr0, Config.hdr1] ++ Vector.replicate 9 Config.payload := rfl

/-- Every byte of the fixed frame after the two header bytes is the payload constant (R49, R100). -/
theorem fixedFrame_getElem_of_two_le {i : Nat} (h : i < 11) (hi : 2 ≤ i) : fixedFrame[i] = Config.payload := by
  simp only [fixedFrame_eq_append]
  rw [Vector.getElem_append_right (by omega) hi, Vector.getElem_replicate]

/-- Settles O29: the constants have their values by definition, and each is read off the net or the frame byte it stands in. -/
theorem hardwiredConstants : Obligations.HardwiredConstants := by
  unfold Obligations.HardwiredConstants
  refine ⟨rfl, rfl, rfl, rfl, rfl, by decide, fun c => ⟨?acc0, ?tw, ?byte0, ?byte1, ?payload⟩⟩
  case acc0 => rw [nets_acc0, startTerm]
  case tw => rw [nets_tw, trimWide]
  case byte0 => simp only [respond_frame, fixedFrame_getElem_zero]
  case byte1 => simp only [respond_frame, fixedFrame_getElem_one]
  case payload =>
    intro i h hi
    simp only [respond_frame, fixedFrame_getElem_of_two_le h hi]

end Sys2Proof.Machine
end

section
/-! The packed views of a call and of a frame (`30_encoding.md` R47, R50). Both append bytes to one word, byte 0 last, so one
rule serves both: appending a byte below a word puts it in lane 0 and moves every other byte one lane up. -/

namespace Sys2Proof.Machine

/-- The word `w` holds the bytes `bs` in its lanes, byte `k` at bits `8k+7..8k` (R47, R50). -/
def HoldsBytes {n : Nat} (w : BitVec n) (bs : List Byte) : Prop :=
  ∀ (k : Nat) (h : k < bs.length), w.extractLsb' (8 * k) 8 = bs[k]

/-- A word of one byte holds that byte. -/
theorem HoldsBytes.single (b : Byte) : HoldsBytes b [b] := by
  intro k h
  obtain rfl : k = 0 := by simpa using h
  exact BitVec.extractLsb'_eq_self

/-- A byte appended below a word is its new lane 0, and the bytes above it stand one lane higher. -/
theorem HoldsBytes.append_byte {n : Nat} {hi : BitVec n} {bs : List Byte} (h : HoldsBytes hi bs) (b : Byte) :
    HoldsBytes (hi ++ b) (b :: bs) := by
  intro k hk
  cases k with
  | zero => exact BitVec.extractLsb'_append_eq_right
  | succ k =>
    have hk' : k < bs.length := by simpa using hk
    calc (hi ++ b).extractLsb' (8 * (k + 1)) 8
      _ = hi.extractLsb' (8 * k) 8 := BitVec.extractLsb'_append_eq_of_le (by omega)
      _ = bs[k] := h k hk'

/-- The packed word of a call holds its fields in tuple order (R46, R47). -/
theorem holdsBytes_args (c : Call) :
    HoldsBytes c.args [c.flags, c.yaw, c.throttle, c.roll, c.pitch, c.leftTrim, c.rightTrim, c.rudderTrim] :=
  (HoldsBytes.single c.rudderTrim).append_byte c.rightTrim |>.append_byte c.leftTrim |>.append_byte c.pitch
    |>.append_byte c.roll |>.append_byte c.throttle |>.append_byte c.yaw |>.append_byte c.flags

/-- A call has eight fields (R46). -/
theorem field_index_lt (f : Field) : f.index < 8 := by
  cases f <;> decide

/-- Lane `k` of a packed call is the byte of field `k` (R47). -/
@[simp] theorem lane_args_index (c : Call) (f : Field) : lane c.args f.index = c.get f := by
  have hlane := holdsBytes_args c f.index (field_index_lt f)
  cases f <;> exact hlane

/-- The flattened frame holds the frame's bytes in order (R50). -/
theorem holdsBytes_frame88 (f : Frame) :
    HoldsBytes (frame88 f) [f[0], f[1], f[2], f[3], f[4], f[5], f[6], f[7], f[8], f[9], f[10]] :=
  (HoldsBytes.single f[10]).append_byte f[9] |>.append_byte f[8] |>.append_byte f[7] |>.append_byte f[6]
    |>.append_byte f[5] |>.append_byte f[4] |>.append_byte f[3] |>.append_byte f[2] |>.append_byte f[1]
    |>.append_byte f[0]

/-- Byte `i` of a frame stands in lane `i` of the flattened frame (R50). -/
theorem frame88_extractLsb' (f : Frame) {i : Nat} (h : i < 11) : (frame88 f).extractLsb' (8 * i) 8 = f[i] := by
  have hlane := holdsBytes_frame88 f i h
  interval_cases i <;> exact hlane

/-- The one value of the block's flattened frame (R50). -/
theorem frame88_fixedFrame : frame88 fixedFrame = 0x00000000000000000008FF#88 := by decide

/-- Settles O2: each of the eight named lanes is the lane of a field, and the reference word is packed by evaluation. -/
theorem everyFieldHasItsLane : Obligations.EveryFieldHasItsLane := by
  unfold Obligations.EveryFieldHasItsLane
  refine ⟨lane_args_index, fun c => ?lanes, by decide⟩
  case lanes =>
    exact ⟨lane_args_index c .flags, lane_args_index c .yaw, lane_args_index c .throttle, lane_args_index c .roll,
      lane_args_index c .pitch, lane_args_index c .leftTrim, lane_args_index c .rightTrim,
      lane_args_index c .rudderTrim⟩

/-- Settles O27: the header slices are bytes 0 and 1 of the fixed frame, and the payload slice is cut from the one value. -/
theorem flattenedFrame : Obligations.FlattenedFrame := by
  unfold Obligations.FlattenedFrame
  refine ⟨fun f i h => frame88_extractLsb' f h, frame88_fixedFrame, ?hdr0, ?hdr1, ?payload⟩
  case hdr0 => exact (frame88_extractLsb' fixedFrame (i := 0) (by decide)).trans fixedFrame_getElem_zero
  case hdr1 => exact (frame88_extractLsb' fixedFrame (i := 1) (by decide)).trans fixedFrame_getElem_one
  case payload => rw [frame88_fixedFrame]; decide

end Sys2Proof.Machine
end

section
/-! TRIMWIDE (`40_trimwide.md`): the OR-mask bit by bit, `TW` as a signed number, and what of leftTrim reaches an output. -/

namespace Sys2Proof.Machine

/-- What the operation TRIMWIDE does: it drives its own port (R70). -/
theorem exec_trimwide (c : Call) (s : State) :
    exec (.trimwide c) s = .next (s.driveTrimWide (trimWide c.leftTrim)) := rfl

/-- What the operation CHECKSUM does: it drives its own port (R80). -/
theorem exec_checksum (c : Call) (s : State) :
    exec (.checksum c) s = .next (s.driveChecksum (checksum c)) := rfl

/-- What the operation FRAME does: it drives its own port, with nothing of the call (R100, R103). -/
theorem exec_frame (c : Call) (s : State) : exec (.frame c) s = .next (s.driveFrame fixedFrame) := rfl

/-- The mask has a one in every bit from 7 up and in no bit below (R13, R70). -/
theorem sxMask_getLsbD (k : Nat) : Config.sxMask.getLsbD k = (decide (k < 64) && !decide (k < 7)) := by
  have hshift : Config.sxMask = BitVec.allOnes 64 <<< 7 := by decide
  rw [hshift, BitVec.getLsbD_shiftLeft, BitVec.getLsbD_allOnes]
  by_cases hk : k < 64
  · simp [hk, show k - 7 < 64 by omega]
  · simp [hk]

/-- Below bit 7 `TW` is leftTrim, from bit 7 up it is all ones (R70). -/
theorem trimWide_getLsbD (v : Byte) (k : Nat) :
    (trimWide v).getLsbD k = if k < 7 then v.getLsbD k else decide (k < 64) := by
  rw [trimWide, zext64, BitVec.getLsbD_or, BitVec.getLsbD_setWidth, sxMask_getLsbD]
  by_cases hlow : k < 7
  · simp [hlow, show k < 64 by omega]
  · by_cases hk : k < 64 <;> simp [hlow, hk]

/-- `TW` as a signed number: the low seven bits of leftTrim above -128 (R71). -/
theorem trimWide_toInt (v : Byte) : (trimWide v).toInt = (low7 v : Int) - 128 := by
  have hnat := trimWide_toNat v
  rw [BitVec.toInt_eq_toNat_cond, hnat, if_neg (by omega)]
  omega

/-- `TW` is negative (R74). -/
theorem trimWide_toInt_neg (v : Byte) : (trimWide v).toInt < 0 := by
  have hlow := low7_le v
  rw [trimWide_toInt]
  omega

/-- Two bytes give one `TW` exactly when their low seven bits agree (R70, R73). -/
theorem trimWide_eq_iff_low7_eq {v v' : Byte} : trimWide v = trimWide v' ↔ low7 v = low7 v' := by
  rw [← BitVec.toNat_inj, trimWide_toNat, trimWide_toNat]
  exact Nat.add_left_cancel_iff

/-- Clearing bit 7 keeps the low seven bits. -/
theorem low7_and_0x7F (v : Byte) : low7 (v &&& 0x7F#8) = low7 v := by
  have hones : (0x7F#8).extractLsb' 0 7 = BitVec.allOnes 7 := by decide
  rw [low7, BitVec.extractLsb'_and, hones, BitVec.and_allOnes, low7]

/-- Setting bit 7 keeps the low seven bits. -/
theorem low7_or_0x80 (v : Byte) : low7 (v ||| 0x80#8) = low7 v := by
  have hzero : (0x80#8).extractLsb' 0 7 = 0#7 := by decide
  rw [low7, BitVec.extractLsb'_or, hzero, BitVec.or_zero, low7]

/-- CHECKSUM reads leftTrim through `TW` alone (R73, R81). -/
theorem checksum_congr_leftTrim (c : Call) {v : Byte} (h : trimWide v = trimWide c.leftTrim) :
    checksum { c with leftTrim := v } = checksum c := by
  rw [checksum, nets_congr_leftTrim c v h, checksum]

/-- The outputs of a call read leftTrim through `TW` alone (R73). -/
theorem respond_congr_leftTrim (c : Call) {v : Byte} (h : trimWide v = trimWide c.leftTrim) :
    respond { c with leftTrim := v } = respond c := by
  simp only [respond, h, checksum_congr_leftTrim c h]

/-- Settles O8: the whole next state is that of `exec_trimwide`, the bits are those of `trimWide_getLsbD`, and the rule's corner
cases and worked example are evaluated. -/
theorem trimwideDrivesItsPort : Obligations.TrimwideDrivesItsPort := by
  unfold Obligations.TrimwideDrivesItsPort
  refine ⟨exec_trimwide, fun c => trimWide_getLsbD c.leftTrim, fun c => trimWide_toInt_neg c.leftTrim, ?corner⟩
  case corner => decide

/-- Settles O9: the word is `TW`, whose signed value lies 128 to 1 below zero and whose unsigned value is at least the mask. -/
theorem trimwideIsAlwaysNegative : Obligations.TrimwideIsAlwaysNegative := by
  unfold Obligations.TrimwideIsAlwaysNegative
  intro c s
  refine ⟨_, trimWide c.leftTrim, exec_trimwide c s, s.driveTrimWide_trimWide _, ?bit63,
    trimWide_toInt_neg c.leftTrim, ?lower, ?unsigned⟩
  case bit63 =>
    rw [trimWide_getLsbD, if_neg (by decide)]
    decide
  case lower =>
    rw [sint, trimWide_toInt]
    omega
  case unsigned =>
    rw [uint, trimWide_toNat]
    omega

/-- Settles O12: clearing or setting bit 7 keeps the low seven bits and so keeps `TW`, and leftTrim reaches every output through
`TW` alone. -/
theorem leftTrimBitSevenIgnored : Obligations.LeftTrimBitSevenIgnored := by
  unfold Obligations.LeftTrimBitSevenIgnored
  have hclear (v : Byte) : trimWide (v &&& 0x7F#8) = trimWide v := trimWide_eq_iff_low7_eq.mpr (low7_and_0x7F v)
  have hset (v : Byte) : trimWide (v ||| 0x80#8) = trimWide v := trimWide_eq_iff_low7_eq.mpr (low7_or_0x80 v)
  refine ⟨fun v => ⟨(hclear v).symm, (hset v).symm⟩, fun c v s hv => ?_⟩
  have htw : trimWide v = trimWide c.leftTrim := by
    obtain rfl | rfl := hv
    · exact hclear c.leftTrim
    · exact hset c.leftTrim
  refine ⟨?trimwide, ?checksum, ?frame, respond_congr_leftTrim c htw⟩
  case trimwide => rw [exec_trimwide, exec_trimwide, htw]
  case checksum => rw [exec_checksum, exec_checksum, checksum_congr_leftTrim c htw]
  case frame => rw [exec_frame, exec_frame]

end Sys2Proof.Machine
end

section
/-! CHECKSUM (`41_checksum.md`): the accumulator chain as arithmetic of natural numbers. Plain terms never borrow, so a run of them
subtracts a sum; the `TW` term always borrows and raises the accumulator. -/

namespace Sys2Proof.Machine

/-! ## The chain, net by net -/

section Chain

variable (c : Call)

/-- `ACC1` (R81). -/
theorem nets_acc1 : (nets c).acc1 = sub64 (nets c).acc0 (plainTerm c.flags) := rfl

/-- `ACC2` (R81). -/
theorem nets_acc2 : (nets c).acc2 = sub64 (nets c).acc1 (plainTerm c.yaw) := rfl

/-- `ACC3` (R81). -/
theorem nets_acc3 : (nets c).acc3 = sub64 (nets c).acc2 (plainTerm c.throttle) := rfl

/-- `ACC4` (R81). -/
theorem nets_acc4 : (nets c).acc4 = sub64 (nets c).acc3 (plainTerm c.roll) := rfl

/-- `ACC5` (R81). -/
theorem nets_acc5 : (nets c).acc5 = sub64 (nets c).acc4 (plainTerm c.pitch) := rfl

/-- `ACC6` (R81). -/
theorem nets_acc6 : (nets c).acc6 = sub64 (nets c).acc5 (trimWide c.leftTrim) := rfl

/-- `ACC7` (R81): rudderTrim comes before rightTrim (R82). -/
theorem nets_acc7 : (nets c).acc7 = sub64 (nets c).acc6 (plainTerm c.rudderTrim) := rfl

/-- `ACC8` (R81). -/
theorem nets_acc8 : (nets c).acc8 = sub64 (nets c).acc7 (plainTerm c.rightTrim) := rfl

end Chain

/-- Settles O14: the whole next state is that of `exec_checksum`, each net is the one before it minus its term, and the reference
scenario's trace is evaluated. -/
theorem checksumRunsTheChain : Obligations.ChecksumRunsTheChain := by
  unfold Obligations.ChecksumRunsTheChain
  refine ⟨exec_checksum, fun c => ?chain, by decide⟩
  case chain =>
    exact ⟨nets_acc0 c, nets_acc1 c, nets_acc2 c, nets_acc3 c, nets_acc4 c, nets_acc5 c, nets_acc6 c, nets_acc7 c,
      nets_acc8 c, nets_tw c⟩

/-! ## The chain as arithmetic -/

/-- The accumulator after a run of plain terms (R51 b, R81). -/
def subPlain (a : Word) (vs : List Byte) : Word := vs.foldl (fun acc v => sub64 acc (plainTerm v)) a

/-- The first term of a run is subtracted first. -/
theorem subPlain_cons (a : Word) (v : Byte) (vs : List Byte) :
    subPlain a (v :: vs) = subPlain (sub64 a (plainTerm v)) vs := rfl

/-- The first five steps of the chain subtract plain terms only (R81). -/
theorem nets_acc5_eq_subPlain (c : Call) :
    (nets c).acc5 = subPlain startTerm [c.flags, c.yaw, c.throttle, c.roll, c.pitch] := rfl

/-- The last two steps of the chain subtract plain terms only (R81). -/
theorem nets_acc8_eq_subPlain (c : Call) :
    (nets c).acc8 = subPlain (nets c).acc6 [c.rudderTrim, c.rightTrim] := rfl

/-- A run of plain terms whose sum fits subtracts that sum, with no borrow on the way (R83). -/
theorem subPlain_toNat_add_sum (vs : List Byte) {a : Word} (h : (vs.map BitVec.toNat).sum ≤ a.toNat) :
    (subPlain a vs).toNat + (vs.map BitVec.toNat).sum = a.toNat := by
  induction vs generalizing a with
  | nil => rfl
  | cons v vs ih =>
    rw [List.map_cons, List.sum_cons] at h ⊢
    rw [subPlain_cons]
    have hstep : (sub64 a (plainTerm v)).toNat = a.toNat - v.toNat := by
      rw [sub64_toNat_of_le (by rw [plainTerm_toNat]; omega), plainTerm_toNat]
    have htail : (subPlain (sub64 a (plainTerm v)) vs).toNat + (vs.map BitVec.toNat).sum
        = (sub64 a (plainTerm v)).toNat := ih (by omega)
    omega

/-- Subtracting `TW` adds `128 - L7`: the step borrows, and the borrow is discarded (R83, R87). -/
theorem sub64_trimWide_toNat {a : Word} (v : Byte) (h : a.toNat < 2 ^ 63) :
    (sub64 a (trimWide v)).toNat = a.toNat + (128 - low7 v) := by
  have hlow := low7_le v
  rw [sub64_toNat, trimWide_toNat]
  omega

/-- `2^64 - uint(TW)` is what the `TW` step adds (R87). -/
theorem two_pow_sub_trimWide_toNat (v : Byte) : 2 ^ 64 - (trimWide v).toNat = 128 - low7 v := by
  rw [trimWide_toNat]
  omega

/-- `ACC5` is 2303 less the flags and the four controls. -/
theorem nets_acc5_toNat (c : Call) :
    (nets c).acc5.toNat + (c.flags.toNat + c.yaw.toNat + c.throttle.toNat + c.roll.toNat + c.pitch.toNat) = 2303 := by
  have hrun := subPlain_toNat_add_sum (a := startTerm) [c.flags, c.yaw, c.throttle, c.roll, c.pitch]
  simp only [List.map_cons, List.map_nil, List.sum_cons, List.sum_nil, startTerm_toNat, ← nets_acc5_eq_subPlain] at hrun
  omega

/-- `ACC6` is `ACC5` plus `128 - L7` (R87). -/
theorem nets_acc6_toNat (c : Call) : (nets c).acc6.toNat = (nets c).acc5.toNat + (128 - low7 c.leftTrim) := by
  have hacc5 := nets_acc5_toNat c
  rw [nets_acc6, sub64_trimWide_toNat c.leftTrim (by omega)]

/-- The closed form of R84: what CHECKSUM gives, with the plain sum and the low seven bits of leftTrim, makes 2431. -/
theorem checksum_toNat_add (c : Call) : (checksum c).toNat + plainSum c + low7 c.leftTrim = 2431 := by
  have hacc5 := nets_acc5_toNat c
  have hacc6 := nets_acc6_toNat c
  have hlow := low7_le c.leftTrim
  have hrun := subPlain_toNat_add_sum (a := (nets c).acc6) [c.rudderTrim, c.rightTrim]
  simp only [List.map_cons, List.map_nil, List.sum_cons, List.sum_nil, ← nets_acc8_eq_subPlain] at hrun
  rw [checksum, plainSum]
  simp only [uint]
  omega

/-- Seven bytes sum to at most `7 * 255` (R84). -/
theorem plainSum_le (c : Call) : plainSum c ≤ 1785 := by
  simp only [plainSum, uint]
  omega

/-- The checksum is at least 519 (R86). -/
theorem le_checksum_toNat (c : Call) : 519 ≤ (checksum c).toNat := by
  have hform := checksum_toNat_add c
  have hsum := plainSum_le c
  have hlow := low7_le c.leftTrim
  omega

/-- The checksum is at most 2431 (R86). -/
theorem checksum_toNat_le (c : Call) : (checksum c).toNat ≤ 2431 := by
  have hform := checksum_toNat_add c
  omega

/-- Settles O19: the `TW` step adds `128 - L7`, which `L7 ≤ 127` keeps from 1 to 128, and `ACC8` is the checksum. -/
theorem trimTermRaisesAccumulator : Obligations.TrimTermRaisesAccumulator := by
  unfold Obligations.TrimTermRaisesAccumulator
  refine ⟨fun c => ?term, nets_acc6_toNat _⟩
  case term =>
    have hlow := low7_le c.leftTrim
    exact ⟨nets_acc6_toNat c, by omega, by omega, two_pow_sub_trimWide_toNat c.leftTrim, checksum_toNat_le c⟩

/-- What more the plain fields sum to, the checksum is less (R84, R93). -/
theorem checksum_toNat_add_of_plainSum_eq {c c' : Call} {n : Nat} (htrim : c.leftTrim = c'.leftTrim)
    (hsum : plainSum c = plainSum c' + n) : (checksum c).toNat + n = (checksum c').toNat := by
  have hform := checksum_toNat_add c
  have hform' := checksum_toNat_add c'
  rw [htrim, hsum] at hform
  omega

/-- The whole byte of rightTrim counts in the plain sum (R84, R89). -/
theorem plainSum_rightTrim (c : Call) (v : Byte) :
    plainSum { c with rightTrim := v } = plainSum { c with rightTrim := 0 } + v.toNat := rfl

/-- The whole byte of rudderTrim counts in the plain sum (R84, R89). -/
theorem plainSum_rudderTrim (c : Call) (v : Byte) :
    plainSum { c with rudderTrim := v } = plainSum { c with rudderTrim := 0 } + v.toNat :=
  Nat.add_right_comm _ v.toNat _

/-- Settles O25: the contract is no premise of `exec_trimwide`, `exec_checksum` and `exec_frame`, and in the closed form rightTrim and
rudderTrim are whole bytes of the plain sum. -/
theorem violatingCallsAreComputed : Obligations.ViolatingCallsAreComputed := by
  unfold Obligations.ViolatingCallsAreComputed
  refine ⟨fun c s _ => ⟨exec_trimwide c s, exec_checksum c s, exec_frame c s⟩, fun c v => ⟨?right, ?rudder⟩⟩
  case right => exact checksum_toNat_add_of_plainSum_eq rfl (plainSum_rightTrim c v)
  case rudder => exact checksum_toNat_add_of_plainSum_eq rfl (plainSum_rudderTrim c v)

/-! ## The range of the checksum, its zero bits and its digits -/

/-- Two bytes have the low seven bits 127 (R86). -/
theorem low7_eq_127_iff (v : Byte) : low7 v = 127 ↔ v = 0x7F#8 ∨ v = 0xFF#8 := by
  rw [low7_eq_mod, ← BitVec.toNat_inj, ← BitVec.toNat_inj]
  simp only [BitVec.toNat_ofNat]
  omega

/-- Two bytes have the low seven bits 0 (R86). -/
theorem low7_eq_zero_iff (v : Byte) : low7 v = 0 ↔ v = 0x00#8 ∨ v = 0x80#8 := by
  rw [low7_eq_mod, ← BitVec.toNat_inj, ← BitVec.toNat_inj]
  simp only [BitVec.toNat_ofNat]
  omega

/-- The checksum is least exactly when every plain field is `0xFF` and the low seven bits of leftTrim are ones (R86). -/
theorem checksum_toNat_eq_519_iff (c : Call) :
    (checksum c).toNat = 519 ↔ plainSum c = 1785 ∧ (c.leftTrim = 0x7F#8 ∨ c.leftTrim = 0xFF#8) := by
  have hform := checksum_toNat_add c
  have hsum := plainSum_le c
  have hlow := low7_le c.leftTrim
  rw [← low7_eq_127_iff]
  omega

/-- The checksum is greatest exactly when every plain field and the low seven bits of leftTrim are zero (R86). -/
theorem checksum_toNat_eq_2431_iff (c : Call) :
    (checksum c).toNat = 2431 ↔ plainSum c = 0 ∧ (c.leftTrim = 0x00#8 ∨ c.leftTrim = 0x80#8) := by
  have hform := checksum_toNat_add c
  rw [← low7_eq_zero_iff]
  omega

/-- A word below `2 ^ start` has only zero bits from `start` up. -/
theorem extractLsb'_eq_zero_of_toNat_lt {w : Word} {start : Nat} (len : Nat) (h : w.toNat < 2 ^ start) :
    w.extractLsb' start len = 0#len := by
  apply BitVec.eq_of_toNat_eq
  rw [BitVec.extractLsb'_toNat, Nat.shiftRight_eq_div_pow, Nat.div_eq_of_lt h, Nat.zero_mod, BitVec.toNat_zero]

/-- The most significant digit of a number of `n + 1` hexadecimal digits is not zero. -/
theorem extractLsb'_ne_zero_of_le_toNat {w : Word} {n : Nat} (hlo : 16 ^ n ≤ w.toNat) (hhi : w.toNat < 16 ^ (n + 1)) :
    w.extractLsb' (4 * n) 4 ≠ 0#4 := by
  have hpow : 2 ^ (4 * n) = 16 ^ n := by rw [Nat.pow_mul]
  have hpos : 1 ≤ w.toNat / 16 ^ n := (Nat.one_le_div_iff (by positivity)).mpr hlo
  have hdigit : w.toNat / 16 ^ n < 16 := Nat.div_lt_of_lt_mul (by rwa [← Nat.pow_succ])
  rw [ne_eq, ← BitVec.toNat_inj, BitVec.extractLsb'_toNat, Nat.shiftRight_eq_div_pow, hpow, BitVec.toNat_zero]
  omega

/-- A word has sixteen hexadecimal digits before its leading zeros are dropped. -/
@[simp] theorem length_hexNibbles (w : Word) : (hexNibbles w).length = 16 := by
  rw [hexNibbles, List.length_map, List.length_range]

/-- Digit `k` from the left of a word (R111). -/
theorem hexNibbles_getElem (w : Word) {k : Nat} (h : k < (hexNibbles w).length) :
    (hexNibbles w)[k] = w.extractLsb' (4 * (15 - k)) 4 := by
  simp only [hexNibbles, List.getElem_map, List.getElem_range]

/-- What stands before the digits of a number of `n + 1` hexadecimal digits are its leading zeros. -/
theorem dropWhile_hexNibbles {w : Word} {n : Nat} (hn : n < 16) (hlo : 16 ^ n ≤ w.toNat) (hhi : w.toNat < 16 ^ (n + 1)) :
    (hexNibbles w).dropWhile (· == 0) = (hexNibbles w).drop (15 - n) := by
  have hfirst : (hexNibbles w).findIdx (fun d => !(d == 0)) = 15 - n := by
    refine (List.findIdx_eq (by rw [length_hexNibbles]; omega)).mpr ⟨?digit, fun j hj => ?leading⟩
    case digit =>
      rw [hexNibbles_getElem, show 15 - (15 - n) = n by omega]
      simpa using extractLsb'_ne_zero_of_le_toNat hlo hhi
    case leading =>
      have hsmall : w.toNat < 2 ^ (4 * (15 - j)) := by
        calc w.toNat
          _ < 16 ^ (n + 1) := hhi
          _ ≤ 16 ^ (15 - j) := Nat.pow_le_pow_right (by decide) (by omega)
          _ = 2 ^ (4 * (15 - j)) := by rw [Nat.pow_mul]
      rw [hexNibbles_getElem, extractLsb'_eq_zero_of_toNat_lt 4 hsmall]
      rfl
  rw [List.dropWhile_eq_drop_findIdx_not, hfirst]

/-- The text of a word that is not zero spells its digits, once the leading zeros are dropped (R111). -/
theorem hexChars_eq_map_of_ne_nil {w : Word} (h : (hexNibbles w).dropWhile (· == 0) ≠ []) :
    hexChars w = ((hexNibbles w).dropWhile (· == 0)).map hexDigit := by
  unfold hexChars
  split
  · contradiction
  · rfl

/-- The text of a number of `n + 1` hexadecimal digits is `n + 1` characters long (R111). -/
theorem length_hexChars {w : Word} {n : Nat} (hn : n < 16) (hlo : 16 ^ n ≤ w.toNat) (hhi : w.toNat < 16 ^ (n + 1)) :
    (hexChars w).length = n + 1 := by
  have hlen : ((hexNibbles w).dropWhile (· == 0)).length = n + 1 := by
    rw [dropWhile_hexNibbles hn hlo hhi, List.length_drop, length_hexNibbles]
    omega
  rw [hexChars_eq_map_of_ne_nil (List.ne_nil_of_length_eq_add_one hlen), List.length_map, hlen]

/-- Settles O17: the range and its ends are those of the closed form, and a number from 519 to 2431 is below `2 ^ 12` and has three
hexadecimal digits. -/
theorem checksumRange : Obligations.ChecksumRange := by
  unfold Obligations.ChecksumRange
  refine ⟨fun c s => ?range, by decide⟩
  have hlo := le_checksum_toNat c
  have hhi := checksum_toNat_le c
  refine ⟨_, checksum c, exec_checksum c s, s.driveChecksum_checksum _, hlo, hhi, ?sign, ?bits, ?digits,
    checksum_toNat_eq_519_iff c, checksum_toNat_eq_2431_iff c⟩
  case sign =>
    rw [sint, sint_eq_uint_of_lt (by omega)]
    exact Int.natCast_nonneg _
  case bits => exact extractLsb'_eq_zero_of_toNat_lt 52 (by omega)
  case digits => exact length_hexChars (n := 2) (by decide) (by omega) (by omega)

end Sys2Proof.Machine
end

section
/-! FRAME (`42_frame.md`): the one frame that every call shows. -/

namespace Sys2Proof.Machine

/-- Settles O26: `exec_frame` drives the fixed frame whatever the call, and `frame88_fixedFrame` is its flattened value (R100, R50). -/
theorem frameDrivesItsPort : Obligations.FrameDrivesItsPort := by
  unfold Obligations.FrameDrivesItsPort
  exact ⟨exec_frame, frame88_fixedFrame⟩

end Sys2Proof.Machine
end

section
/-! HEXTEXT (`43_caller_views.md` R111): a text denotes its digits, and the digits of a word, most significant first, denote the
word; dropping leading zeros changes no number. -/

namespace Sys2Proof.Machine

/-! ## One digit and its character -/

/-- The characters a hexadecimal text is made of (R111). -/
def hexAlphabet : List Char := ['0', '1', '2', '3', '4', '5', '6', '7', '8', '9', 'a', 'b', 'c', 'd', 'e', 'f']

/-- The digit a character of the alphabet stands for: `0`-`9` from character 48 up, `a`-`f` from character 97 up. -/
def charValue (ch : Char) : Nat := if ch.toNat < 58 then ch.toNat - 48 else ch.toNat - 87

/-- A digit is written in the alphabet. -/
theorem hexDigit_mem_hexAlphabet : ∀ d : BitVec 4, hexDigit d ∈ hexAlphabet := by decide

/-- The character of a digit stands for that digit. -/
@[simp] theorem charValue_hexDigit : ∀ d : BitVec 4, charValue (hexDigit d) = d.toNat := by decide

/-- Only the digit zero is written `0`. -/
theorem hexDigit_eq_zero_iff : ∀ d : BitVec 4, hexDigit d = '0' ↔ d = 0 := by decide

/-! ## What digits and characters denote -/

/-- The number a list of hexadecimal digits denotes, most significant digit first. -/
def digitsValue (ds : List (BitVec 4)) : Nat := ds.foldl (fun n d => 16 * n + d.toNat) 0

/-- The number a hexadecimal text denotes, most significant character first. -/
def charsValue (cs : List Char) : Nat := cs.foldl (fun n ch => 16 * n + charValue ch) 0

/-- Digits written as characters denote the same number. -/
@[simp] theorem charsValue_map_hexDigit (ds : List (BitVec 4)) : charsValue (ds.map hexDigit) = digitsValue ds := by
  simp only [charsValue, digitsValue, List.foldl_map, charValue_hexDigit]

/-- One more digit on the right. -/
theorem digitsValue_append_singleton (ds : List (BitVec 4)) (d : BitVec 4) :
    digitsValue (ds ++ [d]) = 16 * digitsValue ds + d.toNat := by
  rw [digitsValue, List.foldl_append, List.foldl_cons, List.foldl_nil, digitsValue]

/-- A zero on the left denotes nothing. -/
theorem digitsValue_zero_cons (ds : List (BitVec 4)) : digitsValue (0 :: ds) = digitsValue ds := rfl

/-- Without its leading zeros a list of digits denotes the same number. -/
theorem digitsValue_dropWhile_zero (ds : List (BitVec 4)) : digitsValue (ds.dropWhile (· == 0)) = digitsValue ds := by
  induction ds with
  | nil => rfl
  | cons d ds ih =>
    by_cases hd : d = 0
    · rw [hd, List.dropWhile_cons_of_pos (by decide), ih, digitsValue_zero_cons]
    · rw [List.dropWhile_cons_of_neg (by simpa using hd)]

/-- The first `k` of a word's sixteen digits denote the word without its other digits. -/
theorem digitsValue_take_hexNibbles (w : Word) {k : Nat} (hk : k ≤ 16) :
    digitsValue ((hexNibbles w).take k) = w.toNat / 16 ^ (16 - k) := by
  induction k with
  | zero => exact (Nat.div_eq_of_lt w.isLt).symm
  | succ k ih =>
    have hlen : k < (hexNibbles w).length := by rw [length_hexNibbles]; omega
    have hdigit : (w.extractLsb' (4 * (15 - k)) 4).toNat = w.toNat / 16 ^ (15 - k) % 16 := by
      rw [BitVec.extractLsb'_toNat, Nat.shiftRight_eq_div_pow, Nat.pow_mul]
    have hhigh : w.toNat / 16 ^ (16 - k) = w.toNat / 16 ^ (15 - k) / 16 := by
      rw [Nat.div_div_eq_div_mul, ← Nat.pow_succ, Nat.succ_eq_add_one, show 15 - k + 1 = 16 - k by omega]
    calc digitsValue ((hexNibbles w).take (k + 1))
      _ = 16 * (w.toNat / 16 ^ (15 - k) / 16) + w.toNat / 16 ^ (15 - k) % 16 := by
        rw [List.take_succ_eq_append_getElem hlen, digitsValue_append_singleton, hexNibbles_getElem, ih (by omega), hdigit,
          hhigh]
      _ = w.toNat / 16 ^ (15 - k) := Nat.div_add_mod _ _
      _ = w.toNat / 16 ^ (16 - (k + 1)) := by rw [show 16 - (k + 1) = 15 - k by omega]

/-- The sixteen digits of a word denote the word read as unsigned (G2). -/
theorem digitsValue_hexNibbles (w : Word) : digitsValue (hexNibbles w) = w.toNat := by
  have htake := digitsValue_take_hexNibbles w (k := 16) (by decide)
  rwa [List.take_of_length_le (by rw [length_hexNibbles]), Nat.sub_self, Nat.pow_zero, Nat.div_one] at htake

/-! ## The text of a word -/

/-- A word that is not zero has a digit that is not zero. -/
theorem dropWhile_hexNibbles_ne_nil {w : Word} (h : w ≠ 0) : (hexNibbles w).dropWhile (· == 0) ≠ [] := by
  intro hnil
  have hvalue := digitsValue_dropWhile_zero (hexNibbles w)
  rw [hnil, digitsValue_hexNibbles] at hvalue
  exact h (BitVec.eq_of_toNat_eq hvalue.symm)

/-- The text of a word that is not zero is its digits without the leading zeros (R111). -/
theorem hexChars_of_ne_zero {w : Word} (h : w ≠ 0) :
    hexChars w = ((hexNibbles w).dropWhile (· == 0)).map hexDigit :=
  hexChars_eq_map_of_ne_nil (dropWhile_hexNibbles_ne_nil h)

/-- The text of zero is one `0` (G1; log entry 13). -/
@[simp] theorem hexChars_zero : hexChars 0#64 = ['0'] := by decide

/-- The text of a word is written in the lowercase alphabet (R111). -/
theorem mem_hexAlphabet_of_mem_hexChars {w : Word} {ch : Char} (hch : ch ∈ hexChars w) : ch ∈ hexAlphabet := by
  by_cases h : w = 0
  · obtain rfl : ch = '0' := by simpa [h] using hch
    decide
  · rw [hexChars_of_ne_zero h] at hch
    obtain ⟨d, -, rfl⟩ := List.mem_map.mp hch
    exact hexDigit_mem_hexAlphabet d

/-- The text of a word denotes the word read as unsigned (R111, G2). -/
theorem charsValue_hexChars (w : Word) : charsValue (hexChars w) = w.toNat := by
  by_cases h : w = 0
  · rw [h]
    decide
  · rw [hexChars_of_ne_zero h, charsValue_map_hexDigit, digitsValue_dropWhile_zero, digitsValue_hexNibbles]

/-- The text of a word that is not zero does not begin with `0` (R111). -/
theorem head?_hexChars_ne_zero {w : Word} (h : w ≠ 0) : (hexChars w).head? ≠ some '0' := by
  rw [hexChars_of_ne_zero h, List.head?_map]
  intro hhead
  obtain ⟨d, hd, hchar⟩ := Option.map_eq_some_iff.mp hhead
  have hfirst := List.head?_dropWhile_not (· == 0) (hexNibbles w)
  rw [hd] at hfirst
  simp [(hexDigit_eq_zero_iff d).mp hchar] at hfirst

/-- The characters of HEXTEXT (R111). -/
@[simp] theorem toList_hexText (w : Word) : (hexText w).toList = hexChars w := String.toList_ofList

/-- No checksum is zero (R86). -/
theorem checksum_ne_zero (c : Call) : checksum c ≠ 0 := by
  intro hzero
  have hlo := le_checksum_toNat c
  rw [hzero] at hlo
  exact absurd hlo (by decide)

/-- Settles O48: alphabet and value are those of the text of every word, a checksum is at least 519 and so has a first digit that
is not zero, and the reference scenario's text is evaluated. -/
theorem checksumTextIsPlainLowercaseHex : Obligations.ChecksumTextIsPlainLowercaseHex := by
  unfold Obligations.ChecksumTextIsPlainLowercaseHex
  refine ⟨fun c => ?text, by decide⟩
  rw [toList_hexText]
  exact ⟨fun ch hch => mem_hexAlphabet_of_mem_hexChars hch, charsValue_hexChars (checksum c),
    head?_hexChars_ne_zero (checksum_ne_zero c)⟩

end Sys2Proof.Machine
end

section
/-! No call faults or is refused (`60_exceptions.md` R120). -/

namespace Sys2Proof.Machine

/-- Every operation answers a next state in every state (R120). -/
theorem exists_exec_eq_next (i : Instr) (s : State) : ∃ t, exec i s = .next t := by
  cases i with
  | trimwide c => exact ⟨_, exec_trimwide c s⟩
  | checksum c => exact ⟨_, exec_checksum c s⟩
  | frame c => exact ⟨_, exec_frame c s⟩

/-- A step on a call answers a next state: the ports undriven again, and the call's own response in the record (R120, R149). -/
theorem step_of_pending_call {s : State} {c : Call} {rest : List HostAct} (h : s.pending = .present c.toPorts :: rest) :
    step s = .next { block := s.block, inp := InPorts.undriven, out := outputsFor InPorts.undriven, pending := rest,
                     seen := s.seen ++ [.call c (respond c).ports] } := by
  simp only [step, h, stepPresent, decodeTuple_toPorts, stepCall_eq]

/-- No step answers a fault: there is none to answer (R120; log entry 14). -/
theorem step_ne_fault (s : State) (r : Fault) : step s ≠ .fault r := nomatch r

/-- Settles O36: an operation's arm names its next state, a step on a call is `step_of_pending_call`, and the type of faults is
empty. -/
theorem noCallFaultsOrIsRefused : Obligations.NoCallFaultsOrIsRefused := by
  unfold Obligations.NoCallFaultsOrIsRefused
  exact ⟨exists_exec_eq_next, fun _ _ _ hp => ⟨_, step_of_pending_call hp⟩, step_ne_fault⟩

end Sys2Proof.Machine
end

section
/-! The caller's contract (`60_exceptions.md` R121, R123): it reads the three trims of a call and no other field. -/

namespace Sys2Proof

/-- Replacing one field of a call replaces the value of that field and of no other (R46). -/
theorem Call.get_set (c : Call) (f g : Field) (v : Byte) :
    (c.set f v).get g = if g = f then v else c.get g := by
  cases f <;> cases g <;> rfl

/-- A field other than the one replaced keeps its value. -/
theorem Call.get_set_of_ne (c : Call) {f g : Field} (v : Byte) (h : f ≠ g) : (c.set f v).get g = c.get g := by
  rw [Call.get_set, if_neg h.symm]

/-- Two calls with the same three trims keep or violate the contract alike (R121). -/
theorem Call.contractViolation_congr {c c' : Call} (hleft : c.get .leftTrim = c'.get .leftTrim)
    (hright : c.get .rightTrim = c'.get .rightTrim) (hrudder : c.get .rudderTrim = c'.get .rudderTrim) :
    c.ContractViolation ↔ c'.ContractViolation := by
  simp only [Call.get] at hleft hright hrudder
  rw [Call.ContractViolation, hleft, hright, hrudder]

/-- A call violates the contract exactly when it is outside the caller's precondition (R121, R123). -/
theorem Call.contractViolation_iff_not_trimInRange (c : Call) : c.ContractViolation ↔ ¬ c.TrimInRange := by
  have hmax : uint Config.trimMax = 0x1F := by decide
  rw [Call.TrimInRange, hmax]
  simp only [not_and_or, Nat.not_le]

/-- Settles O42: R121's bound is the definition's own, a field that is no trim leaves the three trims as they are, and the bound is
`TRIMMAX`. -/
theorem contractIsAboutTheTrims : Obligations.ContractIsAboutTheTrims := by
  unfold Obligations.ContractIsAboutTheTrims
  refine ⟨fun _ => Iff.rfl, fun c f v hleft hright hrudder => ?otherField, Call.contractViolation_iff_not_trimInRange⟩
  case otherField =>
    exact Call.contractViolation_congr (c.get_set_of_ne v hleft) (c.get_set_of_ne v hright) (c.get_set_of_ne v hrudder)

end Sys2Proof
end

section
/-! Decoding and encoding (`30_encoding.md` R45, R47, R56): a word is its eight lanes, a call its eight fields, and a tuple on the
ports either a call or named by its first undriven port. -/

namespace Sys2Proof.Machine

/-! ## Words and calls -/

/-- A call is its eight field values (R46). -/
theorem call_eq_of_get_eq {c c' : Call} (h : ∀ f, c.get f = c'.get f) : c = c' := by
  obtain ⟨flags, yaw, throttle, roll, pitch, leftTrim, rightTrim, rudderTrim⟩ := c
  obtain rfl : flags = _ := h .flags
  obtain rfl : yaw = _ := h .yaw
  obtain rfl : throttle = _ := h .throttle
  obtain rfl : roll = _ := h .roll
  obtain rfl : pitch = _ := h .pitch
  obtain rfl : leftTrim = _ := h .leftTrim
  obtain rfl : rightTrim = _ := h .rightTrim
  obtain rfl : rudderTrim = _ := h .rudderTrim
  rfl

/-- Every lane of a word is the lane of a field (R46, R47). -/
theorem exists_field_index_eq {k : Nat} (h : k < 8) : ∃ f : Field, f.index = k := by
  interval_cases k
  exacts [⟨.flags, rfl⟩, ⟨.yaw, rfl⟩, ⟨.throttle, rfl⟩, ⟨.roll, rfl⟩, ⟨.pitch, rfl⟩, ⟨.leftTrim, rfl⟩, ⟨.rightTrim, rfl⟩,
    ⟨.rudderTrim, rfl⟩]

/-- A word is its eight lanes (R47). -/
theorem word_eq_of_lane_eq {w w' : BitVec 64} (h : ∀ f : Field, lane w f.index = lane w' f.index) : w = w' := by
  ext i hi
  obtain ⟨f, hf⟩ := exists_field_index_eq (k := i / 8) (by omega)
  have hbit (v : BitVec 64) : v[i] = (lane v f.index).getLsbD (i % 8) := by
    rw [lane, hf, BitVec.getLsbD_extractLsb', Nat.div_add_mod, decide_eq_true (Nat.mod_lt i (by decide)), Bool.true_and,
      BitVec.getLsbD_eq_getElem]
  rw [hbit, hbit, h]

/-- Field `k` of the call a word stands for is lane `k` of the word (R47, R56). -/
theorem get_decodeWord (w : BitVec 64) (f : Field) : (decodeWord w).get f = lane w f.index := by
  cases f <;> rfl

/-- Packing a call and unpacking it gives the call (R47). -/
theorem decodeWord_args (c : Call) : decodeWord c.args = c :=
  call_eq_of_get_eq fun f => by rw [get_decodeWord, lane_args_index]

/-- Unpacking a word and packing it gives the word (R47). -/
theorem args_decodeWord (w : BitVec 64) : (decodeWord w).args = w :=
  word_eq_of_lane_eq fun f => by rw [lane_args_index, get_decodeWord]

/-- The operations of a call are those that belong to it (R56). -/
theorem mem_operations {i : Instr} {c : Call} : i ∈ operations c ↔ i.call = c := by
  cases i <;> simp [operations, Instr.call]

/-- Settles O3: packing and unpacking are inverse to each other, and an operation is encoded as the word of its call. -/
theorem decodeEncodeAgree : Obligations.DecodeEncodeAgree := by
  unfold Obligations.DecodeEncodeAgree
  refine ⟨fun i _ => ?encoded, fun w i hi => ⟨i.wellFormed_all, ?word⟩⟩
  case encoded =>
    have hcall : decodeWord (encode i) = i.call := decodeWord_args i.call
    exact ⟨hcall, mem_operations.mpr hcall.symm⟩
  case word => rw [encode, mem_operations.mp hi, args_decodeWord]

/-- Settles O4: the list of a word's operations has these three members. -/
theorem everyWordPerformsTheThree : Obligations.EveryWordPerformsTheThree := by
  unfold Obligations.EveryWordPerformsTheThree
  intro w i
  simp only [operations, List.mem_cons, List.not_mem_nil, or_false]

/-- Settles O1: the three words are decoded by evaluation, and an operation of the call V-C12 is one of its word's. -/
theorem specWordsDecode : Obligations.SpecWordsDecode := by
  unfold Obligations.SpecWordsDecode
  have hmixed : decodeWord 0x0F0A057856341280#64 = ⟨0x80, 0x12, 0x34, 0x56, 0x78, 0x05, 0x0A, 0x0F⟩ := by decide
  exact ⟨by decide, by decide, hmixed, mem_operations.mpr hmixed.symm, mem_operations.mpr hmixed.symm,
    mem_operations.mpr hmixed.symm⟩

/-! ## Bytes -/

/-- Fewer than eight bytes are no call (R45, R58). -/
theorem decode_of_length_lt {bs : List Byte} (h : bs.length < 8) : decode bs = .error (.truncated bs.length) := by
  unfold decode
  split
  · simp only [List.length_cons] at h
    omega
  · rfl

/-- Of eight bytes or more the first eight are the call, in tuple order (R46, R58; log entry 9). -/
theorem decode_of_le_length {bs : List Byte} (h : 8 ≤ bs.length) :
    decode bs = .ok (⟨bs[0], bs[1], bs[2], bs[3], bs[4], bs[5], bs[6], bs[7]⟩, bs.drop 8) := by
  have hsplit : bs = bs[0] :: bs[1] :: bs[2] :: bs[3] :: bs[4] :: bs[5] :: bs[6] :: bs[7] :: bs.drop 8 := by
    simp only [List.getElem_cons_drop, List.drop_zero]
  exact congrArg decode hsplit

/-- The eight bytes of a word are the call of the word (R47; log entry 9). -/
theorem decode_wordBytes (w : BitVec 64) : decode (wordBytes w) = .ok (decodeWord w, []) := rfl

/-- Settles O5: the two clauses are the two branches of the decoder, and of eight bytes or more each field is the byte at its index. -/
theorem bytesDecodeByLength : Obligations.BytesDecodeByLength := by
  unfold Obligations.BytesDecodeByLength
  refine ⟨fun bs h => decode_of_length_lt h, fun bs h => ⟨_, decode_of_le_length h, fun f => ?field⟩, decode_wordBytes⟩
  case field => cases f <;> exact List.getElem?_eq_getElem _

/-! ## Tuples on the ports -/

/-- All of `left_trim_i` is driven exactly when the port carries a whole byte (R142). -/
theorem byte?_eq_some {p : LeftTrimPort} {v : Byte} : p.byte? = some v ↔ p = .whole v := by
  cases p <;> simp [LeftTrimPort.byte?]

/-- A port of a presented call carries that field's value (R45). -/
theorem get_toPorts (c : Call) (f : Field) : c.toPorts.get f = some (c.get f) := by
  cases f <;> rfl

/-- A tuple whose every port carries the value a call gives its field is that call's tuple (R45). -/
theorem eq_toPorts_of_get {t : InPorts} {c : Call} (h : ∀ f, t.get f = some (c.get f)) : t = c.toPorts := by
  obtain ⟨flags, yaw, throttle, roll, pitch, leftTrim, rightTrim, rudderTrim⟩ := t
  obtain rfl : flags = _ := h .flags
  obtain rfl : yaw = _ := h .yaw
  obtain rfl : throttle = _ := h .throttle
  obtain rfl : roll = _ := h .roll
  obtain rfl : pitch = _ := h .pitch
  obtain rfl : leftTrim = _ := byte?_eq_some.mp (h .leftTrim)
  obtain rfl : rightTrim = _ := h .rightTrim
  obtain rfl : rudderTrim = _ := h .rudderTrim
  rfl

/-- The port of `f` is the first in tuple order that is not driven (R142). -/
def FirstUndriven (t : InPorts) (f : Field) : Prop :=
  t.get f = none ∧ ∀ g : Field, g.index < f.index → t.get g ≠ none

/-- A tuple is a call's, or one of its ports is the first undriven one (R142). -/
theorem eq_toPorts_or_firstUndriven (t : InPorts) : (∃ c : Call, t = c.toPorts) ∨ ∃ f, FirstUndriven t f := by
  by_cases hall : ∀ f, ∃ v, t.get f = some v
  · left
    choose val hval using hall
    exact ⟨⟨val .flags, val .yaw, val .throttle, val .roll, val .pitch, val .leftTrim, val .rightTrim, val .rudderTrim⟩,
      eq_toPorts_of_get fun f => by rw [hval]; cases f <;> rfl⟩
  · right
    have hnone : ∃ f, t.get f = none := by simpa [← Option.isSome_iff_exists] using hall
    obtain ⟨f, hf, hmin⟩ := (measure Field.index).wf.has_min {f | t.get f = none} hnone
    exact ⟨f, hf, fun g hlt hg => hmin g hg hlt⟩

/-- A presented call has no undriven port. -/
theorem not_firstUndriven_toPorts (c : Call) (f : Field) : ¬ FirstUndriven c.toPorts f := by
  rintro ⟨hnone, -⟩
  rw [get_toPorts] at hnone
  cases hnone

/-- A driven port passes the check for its value. -/
theorem driven_of_ne_none {f : Field} {o : Option Byte} (h : o ≠ none) : ∃ v, driven f o = .ok v := by
  cases o with
  | none => contradiction
  | some v => exact ⟨v, rfl⟩

/-- The decoder of a tuple checks the eight ports in tuple order. -/
theorem decodeTuple_eq (t : InPorts) :
    decodeTuple t = (do
      let flags ← driven .flags (t.get .flags)
      let yaw ← driven .yaw (t.get .yaw)
      let throttle ← driven .throttle (t.get .throttle)
      let roll ← driven .roll (t.get .roll)
      let pitch ← driven .pitch (t.get .pitch)
      let leftTrim ← driven .leftTrim (t.get .leftTrim)
      let rightTrim ← driven .rightTrim (t.get .rightTrim)
      let rudderTrim ← driven .rudderTrim (t.get .rudderTrim)
      return { flags, yaw, throttle, roll, pitch, leftTrim, rightTrim, rudderTrim }) := rfl

/-- A tuple with an undriven port is rejected by the name of the first one (R142; log entry 6). -/
theorem decodeTuple_of_firstUndriven {t : InPorts} {f : Field} (h : FirstUndriven t f) :
    decodeTuple t = .error (.undriven f) := by
  obtain ⟨hnone, hbefore⟩ := h
  have hstop : driven f (t.get f) = .error (.undriven f) := by rw [hnone]; rfl
  have hpass : ∀ g : Field, ∃ v, g.index < f.index → driven g (t.get g) = .ok v := fun g => by
    by_cases hlt : g.index < f.index
    · exact (driven_of_ne_none (hbefore g hlt)).imp fun v hv _ => hv
    · exact ⟨0, fun h => absurd h hlt⟩
  choose val hval using hpass
  rw [decodeTuple_eq]
  cases f <;> simp (disch := decide) only [hstop, hval] <;> rfl

/-- A tuple decodes to a call exactly when it is that call's (R45, R142). -/
theorem decodeTuple_eq_ok_iff {t : InPorts} {c : Call} : decodeTuple t = .ok c ↔ t = c.toPorts := by
  constructor
  · intro hok
    obtain ⟨c', rfl⟩ | ⟨f, hf⟩ := eq_toPorts_or_firstUndriven t
    · rw [decodeTuple_toPorts] at hok
      cases hok
      rfl
    · rw [decodeTuple_of_firstUndriven hf] at hok
      cases hok
  · rintro rfl
    exact decodeTuple_toPorts c

/-- A tuple is rejected exactly with the name of its first undriven port (R142; log entry 6). -/
theorem decodeTuple_eq_error_iff {t : InPorts} {e : DecodeError} :
    decodeTuple t = .error e ↔ ∃ f, e = .undriven f ∧ FirstUndriven t f := by
  constructor
  · intro herr
    obtain ⟨c, rfl⟩ | ⟨f, hf⟩ := eq_toPorts_or_firstUndriven t
    · rw [decodeTuple_toPorts] at herr
      cases herr
    · rw [decodeTuple_of_firstUndriven hf] at herr
      cases herr
      exact ⟨f, rfl, hf⟩
  · rintro ⟨f, rfl, hf⟩
    exact decodeTuple_of_firstUndriven hf

/-- A tuple is complete exactly when every port is driven (R142). -/
theorem complete_iff {t : InPorts} : t.complete = true ↔ ∀ f, (t.get f).isSome = true := by
  simp only [InPorts.complete, Bool.and_eq_true]
  constructor
  · rintro ⟨⟨⟨⟨⟨⟨⟨hflags, hyaw⟩, hthrottle⟩, hroll⟩, hpitch⟩, hleft⟩, hright⟩, hrudder⟩ f
    cases f <;> assumption
  · intro h
    exact ⟨⟨⟨⟨⟨⟨⟨h .flags, h .yaw⟩, h .throttle⟩, h .roll⟩, h .pitch⟩, h .leftTrim⟩, h .rightTrim⟩, h .rudderTrim⟩

/-- A complete tuple is the tuple of a call: "a call is by definition a complete 8-tuple" (R142). -/
theorem complete_iff_exists_call {t : InPorts} : t.complete = true ↔ ∃ c : Call, t = c.toPorts := by
  rw [complete_iff]
  constructor
  · intro hall
    obtain hcall | ⟨f, hf, -⟩ := eq_toPorts_or_firstUndriven t
    · exact hcall
    · have hsome := hall f
      rw [hf] at hsome
      cases hsome
  · rintro ⟨c, rfl⟩ f
    rw [get_toPorts, Option.isSome_some]

/-- Settles O6: a tuple is a call's or has a first undriven port, and the decoder answers the one or the other accordingly. -/
theorem tupleIsACallWhenComplete : Obligations.TupleIsACallWhenComplete := by
  unfold Obligations.TupleIsACallWhenComplete
  refine ⟨fun t c => decodeTuple_eq_ok_iff, fun t => ?complete, fun t e => decodeTuple_eq_error_iff⟩
  case complete =>
    simp only [decodeTuple_eq_ok_iff]
    exact complete_iff_exists_call

/-! ## Table words -/

/-- Lane `k` of a word given as a number. -/
theorem lane_ofNat (w k : Nat) : lane (BitVec.ofNat 64 w) k = BitVec.ofNat 8 (w % 2 ^ 64 / 2 ^ (8 * k)) := by
  rw [lane, BitVec.extractLsb', BitVec.toNat_ofNat, Nat.shiftRight_eq_div_pow]

/-- The bytes of a 64-bit table word are the word's lanes (R47; log entry 9). -/
theorem tableBytes_64 (w : Nat) : tableBytes 64 w = wordBytes (BitVec.ofNat 64 w) := by
  calc tableBytes 64 w
    _ = (List.range 8).map (lane (BitVec.ofNat 64 w)) := List.map_congr_left fun k _ => (lane_ofNat w k).symm
    _ = wordBytes (BitVec.ofNat 64 w) := rfl

/-- A 64-bit table word stands for the call of the word (R58). -/
theorem tableCall_64 (w : Nat) : tableCall 64 w = some (decodeWord (BitVec.ofNat 64 w)) := by
  rw [tableCall, tableBytes_64, decode_wordBytes]

/-- To have a 64-bit table word run, the host presents its call (log entry 3). -/
theorem tableAct_64 (w : Nat) : tableAct 64 w = .present (decodeWord (BitVec.ofNat 64 w)).toPorts := by
  rw [tableAct, tableCall_64]

/-- Settles O7: the word is read as its eight lanes, and with it presented next the step is one on a call. -/
theorem tableWordRunsAsItsCall : Obligations.TableWordRunsAsItsCall := by
  unfold Obligations.TableWordRunsAsItsCall
  intro w s _
  refine ⟨by rw [decodeTableWord, tableCall_64, Option.map_some], ?run⟩
  case run =>
    rw [State.withFetchWord, tableAct_64]
    exact step_of_pending_call (s.pushAct_pending _)

end Sys2Proof.Machine
end

section
/-! Steps and runs (`20_memory.md` R34 to R36, `70_reset_and_hazards.md` R140, R142, R149): what a step does for each form of the
host's list, what every step keeps, and the record of a run. -/

namespace Sys2Proof.Machine

/-! ## The operations of a call -/

/-- The state an operation leaves: that operation's own port driven (R70, R80, R100). -/
def State.perform (s : State) : Instr → State
  | .trimwide c => s.driveTrimWide (trimWide c.leftTrim)
  | .checksum c => s.driveChecksum (checksum c)
  | .frame _ => s.driveFrame fixedFrame

/-- The effect of every operation in every state. -/
theorem exec_eq_perform (i : Instr) (s : State) : exec i s = .next (s.perform i) := by
  cases i with
  | trimwide c => exact exec_trimwide c s
  | checksum c => exact exec_checksum c s
  | frame c => exact exec_frame c s

/-- What an operation answers is the state it leaves. -/
theorem eq_perform_of_exec {i : Instr} {s t : State} (h : exec i s = .next t) : t = s.perform i := by
  rw [exec_eq_perform] at h
  cases h
  rfl

/-- An operation done again changes nothing (R36). -/
theorem perform_perform (s : State) (i : Instr) : (s.perform i).perform i = s.perform i := by
  cases i <;> rfl

/-- Two operations of one call may change places: they drive different ports, or are the same operation (R127). -/
theorem perform_comm (s : State) {i j : Instr} (h : i.call = j.call) :
    (s.perform i).perform j = (s.perform j).perform i := by
  cases i <;> cases j <;> cases h <;> rfl

/-- Operations run in a row leave the states they leave one after another. -/
theorem runOps_eq_foldl (ops : List Instr) (s : State) : runOps ops s = .next (ops.foldl State.perform s) := by
  induction ops generalizing s with
  | nil => rfl
  | cons i ops ih => rw [runOps, exec_eq_perform, List.foldl_cons, ← ih]

/-- Settles O38: each operation is one update of the state, and the fields that update leaves are those of Laws/State.lean. -/
theorem operationsTouchOnlyTheirPort : Obligations.OperationsTouchOnlyTheirPort := by
  unfold Obligations.OperationsTouchOnlyTheirPort
  intro i s t h
  obtain rfl := eq_perform_of_exec h
  cases i with
  | trimwide c => exact ⟨rfl, rfl, rfl, rfl, .inr ⟨c, rfl⟩, .inl rfl, .inl rfl⟩
  | checksum c => exact ⟨rfl, rfl, rfl, rfl, .inl rfl, .inr ⟨c, rfl⟩, .inl rfl⟩
  | frame c => exact ⟨rfl, rfl, rfl, rfl, .inl rfl, .inl rfl, .inr ⟨c, rfl⟩⟩

/-- Settles O35: a run of operations is a fold of updates, and operations of one call commute. -/
theorem operationsCommute : Obligations.OperationsCommute := by
  unfold Obligations.OperationsCommute
  intro c ops s hperm
  have hcall : ∀ i ∈ ops, i.call = c := fun i hi => mem_operations.mp (hperm.mem_iff.mp hi)
  have hfold : ops.foldl State.perform s = (operations c).foldl State.perform s :=
    hperm.foldl_eq' (fun i hi j hj u => perform_comm u ((hcall i hi).trans (hcall j hj).symm)) s
  rw [runOps_eq_foldl, runOps_eq_foldl, hfold]

/-! ## One step -/

/-- With nothing pending there is no call to make (R142; log entry 3). -/
theorem step_of_pending_nil {s : State} (h : s.pending = []) : step s = .refused .noCall := by
  rw [step, h]

/-- A read of `frame_o` takes the inputs away and samples the port (R105, R131; log entry 17). -/
theorem step_of_pending_readFrame {s : State} {rest : List HostAct} (h : s.pending = .readFrame :: rest) :
    step s = .next (s.release.recordFrame rest) := by
  rw [step, h]
  rfl

/-- A tuple that is no call is refused by the name of its first undriven port (R142, U10; log entry 6). -/
theorem step_of_firstUndriven {s : State} {p : InPorts} {rest : List HostAct} {f : Field}
    (h : s.pending = .present p :: rest) (hf : FirstUndriven p f) :
    step s = .refused (.incompleteCall (.undriven f)) := by
  simp only [step, h, stepPresent, decodeTuple_of_firstUndriven hf]

/-- A step answers a next state on a presented tuple only if the tuple is a call. -/
theorem exists_call_of_step_next {s t : State} {p : InPorts} {rest : List HostAct}
    (h : s.pending = .present p :: rest) (hstep : step s = .next t) : ∃ c : Call, p = c.toPorts := by
  obtain hcall | ⟨f, hf⟩ := eq_toPorts_or_firstUndriven p
  · exact hcall
  · rw [step_of_firstUndriven h hf] at hstep
    cases hstep

/-- After every step the block's state is what it was, and the ports are those of a host that provides nothing (R10; log entry 17). -/
theorem step_next_ports {s t : State} (h : step s = .next t) :
    t.block = s.block ∧ t.inp = InPorts.undriven ∧ t.out = outputsFor InPorts.undriven := by
  obtain ⟨_, _, _, _, _, rfl⟩ | ⟨_, _, rfl⟩ := step_next_cases h <;> exact ⟨rfl, rfl, rfl⟩

/-- An entry with a call's own response is right (R8). -/
theorem ok_call (c : Call) : (Observation.call c (respond c).ports).ok = true := decide_eq_true rfl

/-- An entry with the fixed frame is right (R105). -/
theorem ok_frameRead : (Observation.frameRead fixedFrame).ok = true :=
  decide_eq_true (p := fixedFrame = fixedFrame) rfl

/-- Every step adds one entry to the record, and the entry is right (R149). -/
theorem step_next_seen {s t : State} (h : step s = .next t) : ∃ o, o.ok = true ∧ t.seen = s.seen ++ [o] := by
  obtain ⟨_, c, _, _, _, rfl⟩ | ⟨_, _, rfl⟩ := step_next_cases h
  · exact ⟨_, ok_call c, rfl⟩
  · exact ⟨_, ok_frameRead, rfl⟩

/-- Settles O43: the outputs after power-up are by definition those of undriven inputs, and the record is empty. -/
theorem invariantHoldsAtReset : Obligations.InvariantHoldsAtReset :=
  ⟨rfl, fun _ ho => absurd ho List.not_mem_nil⟩

/-- Settles O44: the ports after a step are those of undriven inputs, and the one entry a step adds to the record is right. -/
theorem everyStepKeepsTheInvariant : Obligations.EveryStepKeepsTheInvariant := by
  unfold Obligations.EveryStepKeepsTheInvariant
  rintro s t ⟨-, hseen⟩ hstep
  obtain ⟨-, hinp, hout⟩ := step_next_ports hstep
  obtain ⟨o, hok, hrecord⟩ := step_next_seen hstep
  refine ⟨by rw [hout, hinp], fun o' ho' => ?entry⟩
  case entry =>
    rw [hrecord, List.mem_append, List.mem_singleton] at ho'
    obtain hold | rfl := ho'
    · exact hseen o' hold
    · exact hok

/-- Settles O30: power-up drives no input, and `outputsFor_undriven` are the outputs then. -/
theorem resetShowsOnlyTheFrame : Obligations.ResetShowsOnlyTheFrame := by
  unfold Obligations.ResetShowsOnlyTheFrame
  refine ⟨rfl, rfl, rfl, fun f => ?undriven, rfl, rfl, rfl⟩
  case undriven => cases f <;> rfl

/-- Settles O31: a tuple that decodes is the call's own, so the step is `step_of_pending_call`, and after the three operations the ports
show the call's response, which is `outputsFor_toPorts`. -/
theorem stepRunsTheDecodedOperations : Obligations.StepRunsTheDecodedOperations := by
  unfold Obligations.StepRunsTheDecodedOperations
  intro s p c rest hpending hdecode
  obtain rfl := decodeTuple_eq_ok_iff.mp hdecode
  exact ⟨_, _, _, exec_trimwide c (s.presentCall c rest), exec_checksum c _, exec_frame c _, rfl, (outputsFor_toPorts c).symm,
    step_of_pending_call hpending⟩

/-- Settles O32: the entry `step_of_pending_call` records is the response of the call. -/
theorem callGivesItsThreeOutputs : Obligations.CallGivesItsThreeOutputs := by
  unfold Obligations.CallGivesItsThreeOutputs
  intro s c rest hpending
  exact ⟨_, (respond c).ports, step_of_pending_call hpending, rfl, rfl, rfl, rfl, rfl, rfl⟩

/-- Settles O28: the call's entry and the ports afterwards show the fixed frame, byte by byte header and payload. -/
theorem frameSaysNothingOfTheCall : Obligations.FrameSaysNothingOfTheCall := by
  unfold Obligations.FrameSaysNothingOfTheCall
  intro c s t rest hpending hstep
  rw [step_of_pending_call hpending] at hstep
  cases hstep
  refine ⟨fun i hi => ?byte, _, rfl, rfl⟩
  case byte =>
    change fixedFrame[i] = _
    split
    next h0 => subst h0; exact fixedFrame_getElem_zero
    next h0 =>
      split
      next h1 => subst h1; exact fixedFrame_getElem_one
      next h1 => exact fixedFrame_getElem_of_two_le hi (by omega)

/-- Settles O33: both states step on one call, and `step_of_pending_call` takes the entry and the ports from that call alone. -/
theorem outputsDependOnTheCallAlone : Obligations.OutputsDependOnTheCallAlone := by
  unfold Obligations.OutputsDependOnTheCallAlone
  intro s s' t t' p rest rest' hpending hpending' hstep hstep'
  obtain ⟨c, rfl⟩ := exists_call_of_step_next hpending hstep
  rw [step_of_pending_call hpending] at hstep
  rw [step_of_pending_call hpending'] at hstep'
  cases hstep
  cases hstep'
  exact ⟨rfl, rfl, .call c (respond c).ports, rfl, rfl⟩

/-- Settles O34: after every step the ports are those of undriven inputs, and two calls from one state differ in the entry they record. -/
theorem callLeavesNothingBehind : Obligations.CallLeavesNothingBehind := by
  unfold Obligations.CallLeavesNothingBehind
  refine ⟨fun _ _ => rfl, fun s t hstep => ?ports, fun s c c' rest => ?twoCalls⟩
  case ports =>
    obtain ⟨hblock, hinp, hout⟩ := step_next_ports hstep
    rw [outputsFor_undriven] at hout
    rw [hout]
    exact ⟨hblock, hinp, rfl, rfl, rfl⟩
  case twoCalls => exact ⟨_, _, step_of_pending_call rfl, step_of_pending_call rfl, rfl⟩

/-- Settles O37: of the three forms of the host's list a read of the frame is never refused, and a presented tuple is a call or has a
first undriven port. -/
theorem refusedOnlyWithoutACall : Obligations.RefusedOnlyWithoutACall := by
  unfold Obligations.RefusedOnlyWithoutACall
  intro s r
  constructor
  · intro hstep
    cases hpending : s.pending with
    | nil =>
      rw [step_of_pending_nil hpending] at hstep
      cases hstep
      exact .inl ⟨rfl, rfl⟩
    | cons act rest =>
      cases act with
      | readFrame =>
        rw [step_of_pending_readFrame hpending] at hstep
        cases hstep
      | present p =>
        obtain ⟨c, rfl⟩ | ⟨f, hf⟩ := eq_toPorts_or_firstUndriven p
        · rw [step_of_pending_call hpending] at hstep
          cases hstep
        · rw [step_of_firstUndriven hpending hf] at hstep
          cases hstep
          exact .inr ⟨p, rest, f, rfl, hf.1, hf.2, rfl⟩
  · rintro (⟨hpending, rfl⟩ | ⟨p, rest, f, hpending, hnone, hbefore, rfl⟩)
    · exact step_of_pending_nil hpending
    · exact step_of_firstUndriven hpending ⟨hnone, hbefore⟩

/-- Settles O39: an operation's update is idempotent, and both calls of a pair are `step_of_pending_call`. -/
theorem repeatingChangesNothing : Obligations.RepeatingChangesNothing := by
  unfold Obligations.RepeatingChangesNothing
  refine ⟨fun i s t hexec => ?operation, fun s t c rest hpending hstep => ?call⟩
  case operation =>
    obtain rfl := eq_perform_of_exec hexec
    rw [exec_eq_perform, perform_perform]
  case call =>
    rw [step_of_pending_call hpending] at hstep
    cases hstep
    exact ⟨_, (respond c).ports, step_of_pending_call rfl, rfl, rfl, rfl, rfl⟩

/-- Settles O40: the step is `step_of_pending_readFrame`, and `frame_o` depends on no input (R105). -/
theorem frameIsReadableAtAnyTime : Obligations.FrameIsReadableAtAnyTime := by
  unfold Obligations.FrameIsReadableAtAnyTime
  refine ⟨fun s rest hpending => ⟨step_of_pending_readFrame hpending, fun hinv => ?same⟩, fun p => rfl⟩
  case same =>
    obtain ⟨hout, -⟩ := hinv
    rw [hout]
    rfl

/-! ## Runs -/

/-- A run whose first step answers a next state goes on from there (R149). -/
theorem run_succ_of_step {s t : State} (k : Nat) (h : step s = .next t) :
    Host.Core.run Sys2Proof.core (k + 1) s = Host.Core.run Sys2Proof.core k t := by
  have hcore : Sys2Proof.core.step s = .next t := h
  simp only [Host.Core.run, hcore]

/-- The host's list of calls, as interactions (R149; log entry 2). -/
def presentAll (cs : List Call) : List HostAct := cs.map fun c => .present c.toPorts

/-- The record a list of calls makes: for each call its own response (R8, R149). -/
def responses (cs : List Call) : List Observation := cs.map fun c => .call c (respond c).ports

/-- A run performs the calls at the head of the host's list, one a step, and records the response of each (R8, R35, R149). -/
theorem run_presentAll (cs : List Call) {s : State} {rest : List HostAct} (h : s.pending = presentAll cs ++ rest) :
    ∃ t : State, Host.Core.run Sys2Proof.core cs.length s = .next t ∧ t.pending = rest ∧
      t.seen = s.seen ++ responses cs := by
  induction cs generalizing s with
  | nil => exact ⟨s, rfl, h, (List.append_nil _).symm⟩
  | cons c cs ih =>
    have hstep := step_of_pending_call (c := c) (rest := presentAll cs ++ rest) h
    obtain ⟨t, hrun, hpending, hseen⟩ := ih (s := ⟨s.block, _, _, _, _⟩) rfl
    exact ⟨t, (run_succ_of_step _ hstep).trans hrun, hpending, hseen.trans (List.append_assoc _ _ _)⟩

/-- Settles O45, by induction on the host's calls in `run_presentAll`. -/
theorem runObservesEveryCall : Obligations.RunObservesEveryCall := by
  unfold Obligations.RunObservesEveryCall
  exact fun cs s rest hpending => run_presentAll cs hpending

/-- Settles O46: each run records the responses of its calls, whatever its first state, and responses of permuted calls are permuted. -/
theorem callOrderIsUnobservable : Obligations.CallOrderIsUnobservable := by
  unfold Obligations.CallOrderIsUnobservable
  intro cs ds s s' hperm hempty hempty' hpending hpending'
  obtain ⟨t, hrun, -, hseen⟩ := run_presentAll cs (hpending.trans (List.append_nil _).symm)
  obtain ⟨t', hrun', -, hseen'⟩ := run_presentAll ds (hpending'.trans (List.append_nil _).symm)
  refine ⟨t, t', hrun, hrun', ?record⟩
  case record =>
    rw [hseen, hseen', hempty, hempty', List.nil_append, List.nil_append]
    exact hperm.map _

/-! ## Outputs of whatever the ports carry -/

/-- Bits 6..0 of a byte made of seven bits are those bits (R142). -/
theorem extractLsb'_lowByte (bits : BitVec 7) : (lowByte bits).extractLsb' 0 7 = bits := by
  rw [lowByte, BitVec.extractLsb'_setWidth_of_le (by decide), BitVec.extractLsb'_eq_self]

/-- `trim_wide_o` is `TW` of any byte whose bits 6..0 the port carries (R142). -/
theorem outputsFor_trimWide {t : InPorts} {v : Byte} (h : t.leftTrim.low? = some (v.extractLsb' 0 7)) :
    (outputsFor t).trimWide = some (trimWide v) := by
  rw [outputsFor, h, Option.map_some, trimWide_lowByte]

/-- `trim_wide_o` has a value only if it is `TW` of a byte whose bits 6..0 the port carries (R142). -/
theorem outputsFor_trimWide_eq_some_iff {t : InPorts} {w : Word} :
    (outputsFor t).trimWide = some w ↔ ∃ v : Byte, t.leftTrim.low? = some (v.extractLsb' 0 7) ∧ w = trimWide v := by
  constructor
  · intro hsome
    obtain ⟨bits, hbits, rfl⟩ := Option.map_eq_some_iff.mp hsome
    exact ⟨lowByte bits, by rw [hbits, extractLsb'_lowByte], rfl⟩
  · rintro ⟨v, hv, rfl⟩
    exact outputsFor_trimWide hv

/-- A chain of checks passes exactly when the first check and the rest of the chain pass. -/
theorem isSome_bind_of_const {α β : Type} (o : Option α) {k : α → Option β} {b : Bool} (h : ∀ a, (k a).isSome = b) :
    (o >>= k).isSome = (o.isSome && b) := by
  cases o with
  | none => rfl
  | some a => exact h a

/-- `checksum_o` has a value exactly when bits 6..0 of `left_trim_i` and the seven other ports are driven (R142). -/
theorem checksumInputs_isSome (t : InPorts) :
    (checksumInputs t).isSome =
      (t.flags.isSome && (t.yaw.isSome && (t.throttle.isSome && (t.roll.isSome && (t.pitch.isSome &&
        (t.leftTrim.low?.isSome && (t.rightTrim.isSome && (t.rudderTrim.isSome && true)))))))) :=
  isSome_bind_of_const _ fun _ => isSome_bind_of_const _ fun _ => isSome_bind_of_const _ fun _ =>
    isSome_bind_of_const _ fun _ => isSome_bind_of_const _ fun _ => isSome_bind_of_const _ fun _ =>
    isSome_bind_of_const _ fun _ => isSome_bind_of_const _ fun _ => rfl

/-- With bit 7 of `left_trim_i` undriven and all else driven, that port is the first undriven one: no call (R45, R142). -/
theorem firstUndriven_lowOnly (c : Call) (bits : BitVec 7) :
    FirstUndriven { c.toPorts with leftTrim := .lowOnly bits } .leftTrim := by
  refine ⟨rfl, fun g hlt => ?_⟩
  have hother : InPorts.get { c.toPorts with leftTrim := .lowOnly bits } g = some (c.get g) := by
    cases g with
    | leftTrim => exact absurd hlt (by decide)
    | _ => rfl
  rw [hother]
  exact Option.some_ne_none _

/-- Settles O41: `trim_wide_o` is a map over bits 6..0 of the port and `checksum_o` a chain of checks; the outputs do not read bit 7, the
decoder does; and under the invariant the ports show `outputsFor` the inputs. -/
theorem drivenInputsDefineOutputs : Obligations.DrivenInputsDefineOutputs := by
  unfold Obligations.DrivenInputsDefineOutputs
  refine ⟨fun t => Option.isSome_map, fun t v hv => outputsFor_trimWide hv, fun t => ?checksum, fun c => ?call,
    fun s hinv => ?inv⟩
  case checksum =>
    have hmap : (outputsFor t).checksum.isSome = (checksumInputs t).isSome := Option.isSome_map
    rw [hmap, checksumInputs_isSome]
    ac_rfl
  case call =>
    exact ⟨outputsFor_toPorts c, outputsFor_toPorts c, decodeTuple_of_firstUndriven (firstUndriven_lowOnly c _)⟩
  case inv =>
    obtain ⟨hout, -⟩ := hinv
    have hcall (c : Call) (hc : s.inp = c.toPorts) : s.out.checksum = some (nets c).acc8 := by
      rw [hout, hc, outputsFor_toPorts]
      rfl
    refine ⟨fun w => ?trimWide, fun hcomplete => ?complete, hcall⟩
    case trimWide =>
      rw [hout]
      exact outputsFor_trimWide_eq_some_iff
    case complete =>
      obtain ⟨c, hc⟩ := complete_iff_exists_call.mp hcomplete
      rw [hcall c hc, Option.isSome_some]

end Sys2Proof.Machine
end

section
/-! TRIMWIDE's result bit by bit (`40_trimwide.md` R71, R72): above bit 6 only ones, below it what leftTrim has there. -/

namespace Sys2Proof.Machine

/-- From bit 7 up `TW` is all ones (R71). -/
theorem trimWide_extractLsb'_high (v : Byte) : (trimWide v).extractLsb' 7 57 = BitVec.allOnes 57 := by
  ext i hi
  rw [BitVec.getElem_extractLsb', trimWide_getLsbD, if_neg (by omega), BitVec.getElem_allOnes, decide_eq_true (by omega)]

/-- The low seven bits of `TW` are leftTrim's (R71). -/
theorem trimWide_extractLsb'_low (v : Byte) : (trimWide v).extractLsb' 0 7 = v.extractLsb' 0 7 := by
  ext i hi
  rw [BitVec.getElem_extractLsb', BitVec.getElem_extractLsb', trimWide_getLsbD, if_pos (by omega)]

/-- Under the mask it makes no difference how a byte was extended: the bits where the two extensions differ are masked (R72). -/
theorem sext64_or_sxMask (v : Byte) : sext64 v ||| Config.sxMask = zext64 v ||| Config.sxMask := by
  ext i hi
  rw [← BitVec.getLsbD_eq_getElem, ← BitVec.getLsbD_eq_getElem, BitVec.getLsbD_or, BitVec.getLsbD_or, sxMask_getLsbD]
  by_cases hlow : i < 7
  · have hext : (sext64 v).getLsbD i = (zext64 v).getLsbD i := by
      rw [sext64, zext64, BitVec.getLsbD_signExtend, BitVec.getLsbD_setWidth, if_pos (by omega)]
    rw [hext]
  · rw [decide_eq_true hi, decide_eq_false hlow, Bool.not_false, Bool.and_self, Bool.or_true, Bool.or_true]

/-- Settles O10: the word is `TW`, whose slices are those of `trimWide_extractLsb'_high` and `_low` and whose value is
`trimWide_toInt`; clearing bit 7 of leftTrim keeps it. -/
theorem trimwideBitFormAndValue : Obligations.TrimwideBitFormAndValue := by
  unfold Obligations.TrimwideBitFormAndValue
  intro c s
  have hvalue := trimWide_toInt c.leftTrim
  have hlow7 := low7_eq_mod c.leftTrim
  have hclear : trimWide c.leftTrim = trimWide (c.leftTrim &&& 0x7F#8) :=
    trimWide_eq_iff_low7_eq.mpr (low7_and_0x7F c.leftTrim).symm
  refine ⟨_, trimWide c.leftTrim, exec_trimwide c s, s.driveTrimWide_trimWide _, trimWide_extractLsb'_high _,
    trimWide_extractLsb'_low _, hclear, ?value, ?negative, fun hvalid => ?valid⟩
  case value => rw [sint, hvalue, hlow7]
  case negative =>
    rw [sint, hvalue]
    omega
  case valid =>
    rw [uint] at hvalid
    rw [sint, hvalue]
    omega

/-- Settles O11: the extensions agree where the mask has no ones, and the two examples are evaluated. -/
theorem extensionsAgreeUnderTheMask : Obligations.ExtensionsAgreeUnderTheMask := by
  unfold Obligations.ExtensionsAgreeUnderTheMask
  exact ⟨sext64_or_sxMask, fun v => rfl, by decide, by decide⟩

/-- Settles O13: what TRIMWIDE leaves on its port is `TW`, and `TW` tells the low seven bits of leftTrim. -/
theorem trimwideShowsExactlyLowSeven : Obligations.TrimwideShowsExactlyLowSeven := by
  unfold Obligations.TrimwideShowsExactlyLowSeven
  intro c c' s s' t t' hexec hexec'
  obtain rfl := eq_perform_of_exec hexec
  obtain rfl := eq_perform_of_exec hexec'
  calc some (trimWide c.leftTrim) = some (trimWide c'.leftTrim)
    _ ↔ low7 c.leftTrim = low7 c'.leftTrim := Option.some_inj.trans trimWide_eq_iff_low7_eq
    _ ↔ c.leftTrim.extractLsb' 0 7 = c'.leftTrim.extractLsb' 0 7 := BitVec.toNat_inj

end Sys2Proof.Machine
end

section
/-! The checksum as a number (`41_checksum.md` R82 to R86, R90, R92, R93): the closed form as a signed number, the range of every
accumulator value, and what follows from the closed form. -/

namespace Sys2Proof.Machine

/-! ## The closed form -/

/-- The checksum denotes the same number read as signed and as unsigned (R86). -/
theorem checksum_toInt (c : Call) : (checksum c).toInt = ((checksum c).toNat : Int) := by
  have hhi := checksum_toNat_le c
  exact sint_eq_uint_of_lt (by omega)

/-- The checksum as a signed number: the difference computed in unbounded integers (R83). -/
theorem checksum_toInt_eq_sub (c : Call) :
    (checksum c).toInt = 2303 - c.flags.toNat - c.yaw.toNat - c.throttle.toNat - c.roll.toNat - c.pitch.toNat
      - (trimWide c.leftTrim).toInt - c.rudderTrim.toNat - c.rightTrim.toNat := by
  have hform := checksum_toNat_add c
  simp only [plainSum, uint] at hform
  rw [checksum_toInt, trimWide_toInt]
  omega

/-- Two calls have the same checksum exactly when they agree in `S + L7` (R90). -/
theorem checksum_eq_iff {c c' : Call} :
    checksum c = checksum c' ↔ plainSum c + low7 c.leftTrim = plainSum c' + low7 c'.leftTrim := by
  have hform := checksum_toNat_add c
  have hform' := checksum_toNat_add c'
  rw [← BitVec.toNat_inj]
  omega

/-- Settles O15: the closed form is `checksum_toNat_add`, and the reference scenario is evaluated. -/
theorem checksumClosedForm : Obligations.ChecksumClosedForm := by
  unfold Obligations.ChecksumClosedForm
  refine ⟨fun c s => ?form, by decide, by decide, by decide⟩
  have hform := checksum_toNat_add c
  have hsigned := checksum_toInt c
  exact ⟨_, checksum c, exec_checksum c s, s.driveChecksum_checksum _, hsigned, by rw [sint]; omega, by rw [sint]; omega,
    plainSum_le c, low7_le c.leftTrim⟩

/-- Settles O24: the equivalence is `checksum_eq_iff`, and two calls that differ in flags and yaw collide. -/
theorem checksumCollisions : Obligations.ChecksumCollisions := by
  unfold Obligations.ChecksumCollisions
  exact ⟨fun c c' => checksum_eq_iff, ⟨1, 0, 0, 0, 0, 0, 0, 0⟩, ⟨0, 1, 0, 0, 0, 0, 0, 0⟩, by decide, rfl, by decide⟩

/-- Settles O18: three trims of at most 31 leave `S` at most `5 * 255 + 2 * 31` and `L7` at most 31; the ends are reached by the
calls with these greatest fields and with no field above zero. -/
theorem contractKeepingRange : Obligations.ContractKeepingRange := by
  unfold Obligations.ContractKeepingRange
  refine ⟨fun c hkept => ⟨?lower, checksum_toNat_le c⟩, ⟨⟨0xFF, 0xFF, 0xFF, 0xFF, 0xFF, 0x1F, 0x1F, 0x1F⟩, by decide, by decide⟩,
    ⟨⟨0, 0, 0, 0, 0, 0, 0, 0⟩, by decide, by decide⟩⟩
  case lower =>
    obtain ⟨hleft, hright, hrudder⟩ := hkept
    have hform := checksum_toNat_add c
    have hmax : uint Config.trimMax = 31 := by decide
    simp only [plainSum, low7_eq_mod, uint] at hform hmax hleft hright hrudder ⊢
    omega

/-! ## The order of the terms -/

/-- Two terms may change places in a chain of subtractions (R82, R83). -/
theorem sub64_right_comm (a b d : Word) : sub64 (sub64 a b) d = sub64 (sub64 a d) b :=
  sub_right_comm a b d

/-- The chain subtracts the terms of the call one after another (R81). -/
theorem foldl_sub64_terms (c : Call) : (terms c).foldl sub64 startTerm = (nets c).acc8 := rfl

/-- Settles O21: subtractions commute, so every order of the terms folds to the chain's `ACC8`; two calls show that the values before it
depend on the order. -/
theorem termOrderChangesOnlyIntermediates : Obligations.TermOrderChangesOnlyIntermediates := by
  unfold Obligations.TermOrderChangesOnlyIntermediates
  refine ⟨fun c => ⟨nets_acc7 c, nets_acc8 c⟩, fun c ts hperm => ?order, ⟨⟨0, 0, 0, 0, 0, 0, 1, 0⟩, by decide⟩,
    ⟨⟨0, 0, 0, 0, 0, 0, 0, 0⟩, by decide⟩⟩
  case order =>
    rw [← foldl_sub64_terms]
    exact hperm.foldl_eq' (fun b _ d _ a => sub64_right_comm a b d) startTerm

/-! ## Sensitivity -/

/-- Replacing a plain field exchanges its old number for the new one in the plain sum (R84). -/
theorem plainSum_set (c : Call) {f : Field} (v : Byte) (h : f ≠ .leftTrim) :
    plainSum (c.set f v) + (c.get f).toNat = plainSum c + v.toNat := by
  cases f with
  | leftTrim => contradiction
  | _ =>
    simp only [plainSum, Call.set, Call.get, uint]
    omega

/-- Replacing a plain field keeps leftTrim. -/
theorem leftTrim_set_of_ne (c : Call) {f : Field} (v : Byte) (h : f ≠ .leftTrim) : (c.set f v).leftTrim = c.leftTrim :=
  c.get_set_of_ne v h

/-- One more on a byte is one more on its number, round from 255 to 0. -/
theorem toNat_add_one (v : Byte) : (v + 1).toNat = (v.toNat + 1) % 256 := BitVec.toNat_add v 1

/-- One more on a byte that is not `0xFF` is one more on its number. -/
theorem toNat_add_one_of_ne {v : Byte} (h : v ≠ 0xFF#8) : (v + 1).toNat = v.toNat + 1 := by
  have hne : v.toNat ≠ 255 := fun heq => h (BitVec.eq_of_toNat_eq heq)
  rw [toNat_add_one]
  omega

/-- One more on leftTrim is one more on `L7`, round from 127 to 0 (R93). -/
theorem low7_add_one (v : Byte) : low7 (v + 1) = (low7 v + 1) % 128 := by
  rw [low7_eq_mod, low7_eq_mod, toNat_add_one]
  omega

/-- Replacing leftTrim changes only `L7` in the closed form (R84). -/
theorem checksum_set_leftTrim (c : Call) (v : Byte) :
    (checksum (c.set .leftTrim v)).toNat + low7 v = (checksum c).toNat + low7 c.leftTrim := by
  have hform := checksum_toNat_add c
  have hform' : (checksum (c.set .leftTrim v)).toNat + plainSum c + low7 v = 2431 := checksum_toNat_add (c.set .leftTrim v)
  omega

/-- Two plain fields may exchange their values (R93). -/
theorem checksum_exchange (c : Call) {f g : Field} (hf : f ≠ .leftTrim) (hg : g ≠ .leftTrim) :
    checksum ((c.set f (c.get g)).set g (c.get f)) = checksum c := by
  have hfirst := plainSum_set c (c.get g) hf
  have hsecond := plainSum_set (c.set f (c.get g)) (c.get f) hg
  have hget : (c.set f (c.get g)).get g = c.get g := by
    rw [Call.get_set]
    split <;> rfl
  have hleft : ((c.set f (c.get g)).set g (c.get f)).leftTrim = c.leftTrim :=
    (leftTrim_set_of_ne _ _ hg).trans (leftTrim_set_of_ne _ _ hf)
  rw [hget] at hsecond
  rw [checksum_eq_iff, hleft]
  omega

/-- Settles O22: one more on a plain field is one more in `S`, one more on leftTrim is one more in `L7` or takes it from 127 to 0, an
exchange keeps `S`, and the example is evaluated. -/
theorem checksumSensitivity : Obligations.ChecksumSensitivity := by
  unfold Obligations.ChecksumSensitivity
  refine ⟨fun c f hf hmax => ?plain, fun c h7F hFF => ?leftTrim, fun c hlast => ?wrap, fun c f g hf hg => checksum_exchange c hf hg,
    by decide⟩
  case plain =>
    have hsum := plainSum_set c (c.get f + 1) hf
    rw [toNat_add_one_of_ne hmax] at hsum
    exact checksum_toNat_add_of_plainSum_eq (leftTrim_set_of_ne c _ hf) (by omega)
  case leftTrim =>
    have hset := checksum_set_leftTrim c (c.leftTrim + 1)
    have hlow := low7_le c.leftTrim
    have hne : low7 c.leftTrim ≠ 127 := fun heq => ((low7_eq_127_iff _).mp heq).elim h7F hFF
    rw [low7_add_one, Nat.mod_eq_of_lt (by omega)] at hset
    rw [uint, uint]
    omega
  case wrap =>
    have hset := checksum_set_leftTrim c (c.leftTrim + 1)
    have hlow : low7 c.leftTrim = 127 := (low7_eq_127_iff _).mpr hlast
    have hzero : low7 (c.leftTrim + 1) = 0 := by rw [low7_add_one, hlow]
    rw [hzero, hlow, Nat.add_zero] at hset
    exact hset

/-! ## Other widths -/

/-- A difference of integers as a bit vector is the difference of the bit vectors. -/
theorem ofInt_sub (n : Nat) (x y : Int) : BitVec.ofInt n (x - y) = BitVec.ofInt n x - BitVec.ofInt n y := by
  rw [Int.sub_eq_add_neg, BitVec.ofInt_add, BitVec.ofInt_neg, BitVec.sub_eq_add_neg]

/-- A bit vector at another width is its unsigned number there. -/
theorem setWidth_eq_ofInt {m : Nat} (n : Nat) (v : BitVec m) : v.setWidth n = BitVec.ofInt n v.toNat := by
  rw [BitVec.ofInt_natCast, BitVec.ofNat_toNat]

/-- The accumulator of any width computes the difference in unbounded integers, reduced to that width (R75, R92). -/
theorem checksumAt_eq_ofInt (n : Nat) (c : Call) : checksumAt n c = BitVec.ofInt n (checksum c).toInt := by
  have hk0 : Config.k0.setWidth n = BitVec.ofInt n 2303 := setWidth_eq_ofInt n Config.k0
  rw [checksum_toInt_eq_sub, checksumAt, hk0]
  simp only [ofInt_sub, ← setWidth_eq_ofInt]

/-- Settles O23: the number of the checksum is below 2^12, so 13 bits and more hold it as a signed number. -/
theorem checksumWidthIndependent : Obligations.ChecksumWidthIndependent := by
  unfold Obligations.ChecksumWidthIndependent
  intro n c hn
  have hhi := checksum_toNat_le c
  have hhalf : (2 : Int) ^ 12 ≤ 2 ^ (n - 1) := pow_le_pow_right₀ (by decide) (by omega)
  rw [sint, checksumAt_eq_ofInt]
  refine BitVec.toInt_ofInt_eq_self (by omega) ?lower ?upper
  all_goals
    rw [checksum_toInt]
    omega

/-! ## The range of every accumulator value, borrow and overflow -/

/-- The word denotes, as an unsigned number, one from `lo` to `hi` (R85). -/
def InRange (lo hi : Nat) (a : Word) : Prop := lo ≤ a.toNat ∧ a.toNat ≤ hi

/-- A plain term lowers the accumulator by its number, of at most 255, when there is that much in it (R83). -/
theorem sub64_plainTerm_toNat {lo hi : Nat} {a : Word} (h : InRange (lo + 255) hi a) (v : Byte) :
    (sub64 a (plainTerm v)).toNat = a.toNat - v.toNat := by
  obtain ⟨hlo, -⟩ := h
  rw [sub64_toNat_of_le (by rw [plainTerm_toNat]; omega), plainTerm_toNat]

/-- A plain term lowers the lower end of the range by 255 (R85). -/
theorem InRange.sub_plainTerm {lo hi : Nat} {a : Word} (h : InRange (lo + 255) hi a) (v : Byte) :
    InRange lo hi (sub64 a (plainTerm v)) := by
  rw [InRange, sub64_plainTerm_toNat h]
  obtain ⟨hlo, hhi⟩ := h
  omega

/-- The `TW` term raises the range by 1 to 128 (R85, R87). -/
theorem InRange.sub_trimWide {lo hi : Nat} {a : Word} (h : InRange lo hi a) (hsmall : hi < 2 ^ 63) (v : Byte) :
    InRange (lo + 1) (hi + 128) (sub64 a (trimWide v)) := by
  obtain ⟨hlo, hhi⟩ := h
  have hlow := low7_le v
  rw [InRange, sub64_trimWide_toNat v (by omega)]
  omega

section Ranges

variable (c : Call)

/-- The range of `ACC0` (R85). -/
theorem inRange_acc0 : InRange 2303 2303 (nets c).acc0 := by
  rw [nets_acc0, InRange, startTerm_toNat]
  exact ⟨le_rfl, le_rfl⟩

/-- The range of `ACC1` (R85). -/
theorem inRange_acc1 : InRange 2048 2303 (nets c).acc1 := (inRange_acc0 c).sub_plainTerm c.flags

/-- The range of `ACC2` (R85). -/
theorem inRange_acc2 : InRange 1793 2303 (nets c).acc2 := (inRange_acc1 c).sub_plainTerm c.yaw

/-- The range of `ACC3` (R85). -/
theorem inRange_acc3 : InRange 1538 2303 (nets c).acc3 := (inRange_acc2 c).sub_plainTerm c.throttle

/-- The range of `ACC4` (R85). -/
theorem inRange_acc4 : InRange 1283 2303 (nets c).acc4 := (inRange_acc3 c).sub_plainTerm c.roll

/-- The range of `ACC5` (R85). -/
theorem inRange_acc5 : InRange 1028 2303 (nets c).acc5 := (inRange_acc4 c).sub_plainTerm c.pitch

/-- The range of `ACC6` (R85). -/
theorem inRange_acc6 : InRange 1029 2431 (nets c).acc6 := (inRange_acc5 c).sub_trimWide (by decide) c.leftTrim

/-- The range of `ACC7` (R85). -/
theorem inRange_acc7 : InRange 774 2431 (nets c).acc7 := (inRange_acc6 c).sub_plainTerm c.rudderTrim

/-- The range of `ACC8` (R85). -/
theorem inRange_acc8 : InRange 519 2431 (nets c).acc8 := (inRange_acc7 c).sub_plainTerm c.rightTrim

end Ranges

/-- A word in a range far below 2^63 denotes the same number as signed and as unsigned (R85). -/
theorem InRange.bounds {lo hi : Nat} {a : Word} (h : InRange lo hi a) (hsmall : hi < 2 ^ 63 := by decide) :
    lo ≤ uint a ∧ uint a ≤ hi ∧ sint a = (uint a : Int) :=
  ⟨h.1, h.2, sint_eq_uint_of_lt (h.2.trans_lt hsmall)⟩

/-- A plain term does not borrow from an accumulator of at least 255 (R83). -/
theorem borrows_plainTerm {lo hi : Nat} {a : Word} (h : InRange (lo + 255) hi a) (v : Byte) :
    borrows a (plainTerm v) = false := by
  obtain ⟨hlo, -⟩ := h
  rw [borrows, uint, uint, plainTerm_toNat]
  exact decide_eq_false (by omega)

/-- The `TW` term borrows from an accumulator below 2^63 (R83). -/
theorem borrows_trimWide {lo hi : Nat} {a : Word} (h : InRange lo hi a) (v : Byte) (hsmall : hi < 2 ^ 63 := by decide) :
    borrows a (trimWide v) = true := by
  obtain ⟨-, hhi⟩ := h
  rw [borrows, uint, uint, trimWide_toNat]
  exact decide_eq_true (by omega)

/-- A plain term subtracted from an accumulator of at least 255 gives the exact signed difference (R83, R85). -/
theorem subOverflows_plainTerm {lo hi : Nat} {a : Word} (h : InRange (lo + 255) hi a) (v : Byte)
    (hsmall : hi < 2 ^ 63 := by decide) : subOverflows a (plainTerm v) = false := by
  have hsub := sub64_plainTerm_toNat h v
  have hplain := plainTerm_toNat v
  obtain ⟨hlo, hhi⟩ := h
  rw [subOverflows, sint, sint, sint, sint_eq_uint_of_lt (by omega), sint_eq_uint_of_lt (by omega),
    sint_eq_uint_of_lt (by omega)]
  exact decide_eq_false (by omega)

/-- The `TW` term gives the exact signed difference: the accumulator is far from the ends of the signed range (R83, R85). -/
theorem subOverflows_trimWide {lo hi : Nat} {a : Word} (h : InRange lo hi a) (v : Byte)
    (hsmall : hi < 2 ^ 62 := by decide) : subOverflows a (trimWide v) = false := by
  obtain ⟨-, hhi⟩ := h
  have hsub := sub64_trimWide_toNat (a := a) v (by omega)
  have hlow := low7_le v
  rw [subOverflows, sint, sint, sint, sint_eq_uint_of_lt (by omega), sint_eq_uint_of_lt (by omega), trimWide_toInt]
  exact decide_eq_false (by omega)

/-- Settles O16: each value is in the range its step gives it, no step leaves the signed range, and the ends are those of the calls V-C3
and V-C2, evaluated. -/
theorem accumulatorStaysInRange : Obligations.AccumulatorStaysInRange := by
  unfold Obligations.AccumulatorStaysInRange
  refine ⟨fun c => ?range, by decide, by decide, fun c => ?overflow⟩
  case range =>
    simp only [trace, List.zip_cons_cons, List.zip_nil_left, List.forall_mem_cons, List.not_mem_nil, false_imp_iff,
      implies_true, and_true]
    exact ⟨(inRange_acc0 c).bounds, (inRange_acc1 c).bounds, (inRange_acc2 c).bounds, (inRange_acc3 c).bounds,
      (inRange_acc4 c).bounds, (inRange_acc5 c).bounds, (inRange_acc6 c).bounds, (inRange_acc7 c).bounds,
      (inRange_acc8 c).bounds⟩
  case overflow =>
    simp only [trace, terms, List.zip_cons_cons, List.zip_nil_right, List.forall_mem_cons, List.not_mem_nil, false_imp_iff,
      implies_true, and_true]
    exact ⟨subOverflows_plainTerm (inRange_acc0 c) _, subOverflows_plainTerm (inRange_acc1 c) _,
      subOverflows_plainTerm (inRange_acc2 c) _, subOverflows_plainTerm (inRange_acc3 c) _,
      subOverflows_plainTerm (inRange_acc4 c) _, subOverflows_trimWide (inRange_acc5 c) _,
      subOverflows_plainTerm (inRange_acc6 c) _, subOverflows_plainTerm (inRange_acc7 c) _⟩

/-- Settles O20: the range before each step says whether it borrows, and the result is `checksum_toInt_eq_sub`. -/
theorem onlyTheTrimStepBorrows : Obligations.OnlyTheTrimStepBorrows := by
  unfold Obligations.OnlyTheTrimStepBorrows
  intro c
  refine ⟨?borrows, checksum_toInt_eq_sub c⟩
  case borrows =>
    simp only [trace, terms, List.zip_cons_cons, List.zip_nil_right, List.map_cons, List.map_nil,
      borrows_plainTerm (inRange_acc0 c), borrows_plainTerm (inRange_acc1 c), borrows_plainTerm (inRange_acc2 c),
      borrows_plainTerm (inRange_acc3 c), borrows_plainTerm (inRange_acc4 c), borrows_trimWide (inRange_acc5 c),
      borrows_plainTerm (inRange_acc6 c), borrows_plainTerm (inRange_acc7 c)]

end Sys2Proof.Machine
end

section
/-! The caller-side views (`43_caller_views.md`): the byte view TRUNC8 (R110) and the length of a hexadecimal text (R111, R112). -/

namespace Sys2Proof.Machine

/-- The byte view of a word is its number modulo 256 (R110). -/
theorem trunc8_toNat (v : Word) : (trunc8 v).toNat = v.toNat % 256 := by
  rw [trunc8, BitVec.extractLsb'_toNat, Nat.shiftRight_zero]

/-- The byte view read as a word is the word `AND 0xFF` (R110). -/
theorem zext64_trunc8 (v : Word) : zext64 (trunc8 v) = v &&& 0xFF#64 := by
  have hmask : (0xFF#64).toNat = 2 ^ 8 - 1 := by decide
  apply BitVec.eq_of_toNat_eq
  rw [zext64, BitVec.toNat_setWidth_of_le (by decide), trunc8_toNat, BitVec.toNat_and, hmask, Nat.and_two_pow_sub_one_eq_mod]

/-- A word above 255 is not its byte view (R110). -/
theorem zext64_trunc8_ne {v : Word} (h : 255 < v.toNat) : zext64 (trunc8 v) ≠ v := by
  intro heq
  have hnat := congrArg BitVec.toNat heq
  rw [zext64, BitVec.toNat_setWidth_of_le (by decide), trunc8_toNat] at hnat
  omega

/-- Bits 11..8 of a checksum are its third hexadecimal digit, which is not zero (R86). -/
theorem checksum_extractLsb'_ne_zero (c : Call) : (checksum c).extractLsb' 8 4 ≠ 0#4 := by
  have hlo := le_checksum_toNat c
  have hhi := checksum_toNat_le c
  exact extractLsb'_ne_zero_of_le_toNat (n := 2) (by omega) (by omega)

/-- Settles O47: TRUNC8 is the number modulo 256, and a checksum of at least 519 and below 4096 has a third digit to lose. -/
theorem byteViewLosesBits : Obligations.ByteViewLosesBits := by
  unfold Obligations.ByteViewLosesBits
  refine ⟨fun v => ⟨rfl, zext64_trunc8 v⟩, fun c => ⟨checksum_extractLsb'_ne_zero c, zext64_trunc8_ne ?above⟩, by decide⟩
  case above =>
    have hlo := le_checksum_toNat c
    omega

/-- Only the text of zero begins with `0` (R111, G1). -/
theorem head?_hexChars_eq_zero_iff (w : Word) : (hexChars w).head? = some '0' ↔ w = 0 := by
  constructor
  · intro hhead
    by_contra hne
    exact head?_hexChars_ne_zero hne hhead
  · rintro rfl
    exact congrArg List.head? hexChars_zero

/-- Settles O49: value and first character are those of `charsValue_hexChars` and `head?_hexChars_eq_zero_iff`; a checksum has three
hexadecimal digits and `TW` sixteen. -/
theorem hexTextSpellsEveryWord : Obligations.HexTextSpellsEveryWord := by
  unfold Obligations.HexTextSpellsEveryWord
  refine ⟨fun v => ⟨charsValue_hexChars v, head?_hexChars_eq_zero_iff v, ?zero, toList_hexText v⟩, fun c => ?checksum, fun v => ?trimWide,
    by decide⟩
  case zero =>
    rintro rfl
    decide
  case checksum =>
    have hlo := le_checksum_toNat c
    have hhi := checksum_toNat_le c
    rw [toList_hexText, length_hexChars (n := 2) (by decide) (by omega) (by omega)]
  case trimWide =>
    have hnat := trimWide_toNat v
    have hlow := low7_le v
    rw [toList_hexText, length_hexChars (n := 15) (by decide) (by omega) (by omega)]

end Sys2Proof.Machine
end
